-- ==== Sys2Proof/Word.lean ====
section
/-!
DEFINITION. The word types of the PSG core: the widths of 00_scope.md rules R8 and R10.
Everything that computes with them (`wrap16`, the binary32 operations, the field helpers) stands in
Sys2Proof/Machine/ or Sys2Proof/Decode.lean.
-/

namespace Sys2Proof

/-- A stored waveform, direct-audio or output-buffer sample: a signed 16-bit integer in two's complement
(R10). Its signed value is `BitVec.toInt`. -/
abbrev Sample := BitVec 16

/-- The bits of an IEEE 754 binary32 value: bit 31 the sign, bits 30..23 the biased exponent, bits 22..0 the
fraction (R10). -/
abbrev F32 := BitVec 32

/-- The 12-bit command word `cw` = `r : v` of 30_encoding.md rule R70. -/
abbrev CommandWord := BitVec 12

/-- The number of one of the `NVOICE` = 8 voices (R8, R20). -/
abbrev VoiceIndex := Fin 8

end Sys2Proof
end

