-- ==== Sys2Proof/Syntax.lean ====
section
/-!
DEFINITION. The commands of the PSG core (30_encoding.md rules R72 and R74): one constructor for each of the 12 rows of
spec/opcode_table.json, with the fields that the row names. Ignored bits of the value byte (R72) are no part of a command.
-/

namespace Sys2Proof

/-- One register write. The two rows of mnemonic `RSVD` are two constructors; each keeps the register index that the assembler form
`RSVD r, value` names (R77). -/
inductive Instr where
  /-- `SEL`, r = 0: `latch = v[2:0]`. -/
  | sel (latch : BitVec 3)
  /-- `MVOL`, r = 1: `left = v[7:4]`, `right = v[3:0]`. -/
  | mvol (left right : BitVec 4)
  /-- `FRQL`, r = 2: `flo = v[7:0]`. -/
  | frql (flo : BitVec 8)
  /-- `FRQH`, r = 3: `fhi = v[3:0]`. -/
  | frqh (fhi : BitVec 4)
  /-- `CTRL`, r = 4: `en = v[7]`, `dda = v[6]`, `vol = v[4:0]`. -/
  | ctrl (en dda : Bool) (vol : BitVec 5)
  /-- `PAN`, r = 5: `panL = v[7:4]`, `panR = v[3:0]`. -/
  | pan (panL panR : BitVec 4)
  /-- `WAVE`, r = 6: `u = v[7:0]`. -/
  | wave (u : BitVec 8)
  /-- `NOISE`, r = 7: `ne = v[7]`, `sel = v[4:0]`. -/
  | noise (ne : Bool) (sel : BitVec 5)
  /-- `LFOD`, r = 8: no fields. -/
  | lfod
  /-- `LFOC`, r = 9: `halt = v[7]`, `ctl = v[1:0]`. -/
  | lfoc (halt : Bool) (ctl : BitVec 2)
  /-- `RSVD`, r = 10 or 11 (row 0xA00 / 0xE00). -/
  | rsvd10 (r : BitVec 4)
  /-- `RSVD`, r = 12 to 15 (row 0xC00 / 0xC00). -/
  | rsvd12 (r : BitVec 4)
deriving DecidableEq, Repr

end Sys2Proof
end

