-- ==== Sys2Proof/WellFormed.lean ====
section
/-!
DEFINITION. Which commands are well formed. The widths of the fields are the widths of 30_encoding.md rule R72, so the only checks
left are those of the two `RSVD` rows: the register index lies in the row's range (R74).
-/

namespace Sys2Proof

/-- The command is one of the opcode map's (R74). -/
def Instr.wf : Instr → Bool
  | .rsvd10 r => r.toNat == 10 || r.toNat == 11
  | .rsvd12 r => Nat.ble 12 r.toNat
  | .sel _ | .mvol _ _ | .frql _ | .frqh _ | .ctrl _ _ _ | .pan _ _ | .wave _ | .noise _ _ | .lfod | .lfoc _ _ => true

/-- `Instr.wf` as a proposition. -/
abbrev Instr.WellFormed (i : Instr) : Prop := i.wf = true

end Sys2Proof
end

