-- ==== Sys2Proof/Decode.lean ====
section
/-!
DEFINITION. The decoder of a command, total on every register index and value byte (30_encoding.md rules R71, R72, R74, R75), and
after it the encoder, written from the same tables.

The PSG core fetches no bytes (20_memory.md rule R63): its commands are pairs (r, v) in the queue. The 12-bit command word is the
spec's own packing of the pair (R70, D24); a word wider than 12 bits is no command word and is rejected by name.
-/

namespace Sys2Proof

/-- Bits `hi..lo` of a value byte, `v[hi:lo]` of R11. -/
def byteField (v : BitVec 8) (hi lo : Nat) : BitVec (hi - lo + 1) := v.extractLsb hi lo

/-- Bit `n` of a value byte, `v[n]` of R11. -/
def byteBit (v : BitVec 8) (n : Nat) : Bool := v.getLsbD n

/-- The command of register index `r` and value byte `v` (R72, R74). Indices 10 to 15 are reserved with a defined behaviour
(R75), so no pair is rejected. -/
def decodeCommand (r : BitVec 4) (v : BitVec 8) : Instr :=
  match r.toNat with
  | 0 => .sel (byteField v 2 0)
  | 1 => .mvol (byteField v 7 4) (byteField v 3 0)
  | 2 => .frql v
  | 3 => .frqh (byteField v 3 0)
  | 4 => .ctrl (byteBit v 7) (byteBit v 6) (byteField v 4 0)
  | 5 => .pan (byteField v 7 4) (byteField v 3 0)
  | 6 => .wave v
  | 7 => .noise (byteBit v 7) (byteField v 4 0)
  | 8 => .lfod
  | 9 => .lfoc (byteBit v 7) (byteField v 1 0)
  | 10 => .rsvd10 r
  | 11 => .rsvd10 r
  | _ => .rsvd12 r

/-- The register index of a command word, `cw[11:8]` (R70). -/
def CommandWord.index (cw : CommandWord) : BitVec 4 := cw.extractLsb 11 8

/-- The value byte of a command word, `cw[7:0]` (R70). -/
def CommandWord.value (cw : CommandWord) : BitVec 8 := cw.extractLsb 7 0

/-- The decoder of command words; every 12-bit word is a command (R74). -/
def decode (cw : CommandWord) : Instr := decodeCommand (CommandWord.index cw) (CommandWord.value cw)

/-- Why a number is no command word. -/
inductive DecodeError where
  /-- It does not fit the 12 bits of `cw` (R70). -/
  | widerThanCommandWord (w : Nat)
deriving DecidableEq, Repr

/-- The decoder on any number: a 12-bit command word's command, or the reason why it is none. -/
def decodeNumber (w : Nat) : Except DecodeError Instr :=
  if w < 2 ^ 12 then .ok (decode (BitVec.ofNat 12 w)) else .error (.widerThanCommandWord w)

/-- What `decodeNumber` reads from the `nbits` low bits of `w`, numbered as spec/opcode_table.json numbers them. -/
def decodeTableWord (nbits w : Nat) : Option Instr :=
  match decodeNumber (w % 2 ^ nbits) with
  | .ok i => some i
  | .error _ => none

/-- The register index of a command (R74, column r). -/
def Instr.index : Instr → BitVec 4
  | .sel _ => 0
  | .mvol _ _ => 1
  | .frql _ => 2
  | .frqh _ => 3
  | .ctrl _ _ _ => 4
  | .pan _ _ => 5
  | .wave _ => 6
  | .noise _ _ => 7
  | .lfod => 8
  | .lfoc _ _ => 9
  | .rsvd10 r => r
  | .rsvd12 r => r

/-- The value byte of a command with its ignored bits zero (R72). -/
def Instr.value : Instr → BitVec 8
  | .sel latch => 0#5 ++ latch
  | .mvol left right => left ++ right
  | .frql flo => flo
  | .frqh fhi => 0#4 ++ fhi
  | .ctrl en dda vol => BitVec.ofBool en ++ BitVec.ofBool dda ++ 0#1 ++ vol
  | .pan panL panR => panL ++ panR
  | .wave u => u
  | .noise ne selector => BitVec.ofBool ne ++ 0#2 ++ selector
  | .lfod => 0
  | .lfoc halt ctl => BitVec.ofBool halt ++ 0#5 ++ ctl
  | .rsvd10 _ => 0
  | .rsvd12 _ => 0

/-- The command word of a command (R70). -/
def encode (i : Instr) : CommandWord := i.index ++ i.value

/-- One row of the opcode map (R74): a word `cw` is in the row when `cw &&& mask = matchBits`. -/
structure OpcodeRow where
  mnemonic : String
  matchBits : CommandWord
  mask : CommandWord
deriving DecidableEq, Repr

/-- The opcode map of R74, row by row. -/
def opcodeRows : List OpcodeRow :=
  [⟨"SEL", 0x000, 0xF00⟩, ⟨"MVOL", 0x100, 0xF00⟩, ⟨"FRQL", 0x200, 0xF00⟩, ⟨"FRQH", 0x300, 0xF00⟩,
   ⟨"CTRL", 0x400, 0xF00⟩, ⟨"PAN", 0x500, 0xF00⟩, ⟨"WAVE", 0x600, 0xF00⟩, ⟨"NOISE", 0x700, 0xF00⟩,
   ⟨"LFOD", 0x800, 0xF00⟩, ⟨"LFOC", 0x900, 0xF00⟩, ⟨"RSVD", 0xA00, 0xE00⟩, ⟨"RSVD", 0xC00, 0xC00⟩]

/-- The word lies in the row. -/
def OpcodeRow.holds (row : OpcodeRow) (cw : CommandWord) : Bool := cw &&& row.mask == row.matchBits

/-- The place in `opcodeRows` of the row that a command is written in. -/
def Instr.rowNumber : Instr → Fin 12
  | .sel _ => 0
  | .mvol _ _ => 1
  | .frql _ => 2
  | .frqh _ => 3
  | .ctrl _ _ _ => 4
  | .pan _ _ => 5
  | .wave _ => 6
  | .noise _ _ => 7
  | .lfod => 8
  | .lfoc _ _ => 9
  | .rsvd10 _ => 10
  | .rsvd12 _ => 11

/-- The row of R74 that a command is written in. -/
def Instr.row (i : Instr) : OpcodeRow := opcodeRows.get i.rowNumber

end Sys2Proof
end

