-- ==== Sys2Proof/Config.lean ====
section
/-!
DEFINITION. The implementation parameters of 00_scope.md rule R9, all OPEN in the spec and "taken by the model as an
argument", and the free values: what the spec's own operations do not state.

`Config` is the argument: every state carries one (State.cfg), no operation writes it, and a statement about every state is a
statement about every configuration. `Config.hw` is the configuration of the machine after reset: opaque constants with no
value, so nothing can be proved from a number that the spec does not give (log entry 1).
`AMP` of R9 is the host setting `H.amp` of 10_state.md rule R36 and stands in State; `BUF_LEN` is the length of the buffer of one
`getSamples` call (D4).
-/

namespace Sys2Proof

/-- The configuration argument (R9). The widths of `red` and `log` carry their constraints: `RED(s)` is in 0..31 for s in 0..15
and `LOG(l)` in 0..255 for l in 0..31. The constraints that a width cannot carry are `Config.wf`. -/
structure Config where
  /-- `MCLK`, in Hz. -/
  mclk : Nat
  /-- `OUTPUT_RATE`, output pairs a second. -/
  outputRate : Nat
  /-- `RED`, indexed by a 4-bit selector (D5). -/
  red : Vector (BitVec 5) 16
  /-- `LOG`, indexed by a level 0..31. -/
  log : Vector (BitVec 8) 32
  /-- `NOISE_WAVE`; `NOISE_LEN` is its length. -/
  noise : List Sample
deriving DecidableEq, Repr

/-- The constraints of R9 that the widths of `Config` do not already carry: `MCLK` >= 1, `OUTPUT_RATE` >= 1, `NOISE_LEN` >= 1.
A configuration that breaks one is refused (60_exceptions.md rule R228). -/
def Config.wf (c : Config) : Bool :=
  Nat.ble 1 c.mclk && Nat.ble 1 c.outputRate && !c.noise.isEmpty

/-- `NOISE_LEN` (R9). -/
def Config.noiseLen (c : Config) : Nat := c.noise.length

/-- `MCLK` less one (R9, OPEN; no value in the spec). -/
opaque Config.hwMclkPred : Nat
/-- `OUTPUT_RATE` less one (R9, OPEN). -/
opaque Config.hwOutputRatePred : Nat
/-- The reduction table (R9, OPEN). -/
opaque Config.hwRed : Vector (BitVec 5) 16
/-- The gain table (R9, OPEN). -/
opaque Config.hwLog : Vector (BitVec 8) 32
/-- Entry 0 of the noise waveform (R9, OPEN; `NOISE_LEN` >= 1). -/
opaque Config.hwNoiseFirst : Sample
/-- The rest of the noise waveform (R9, OPEN). -/
opaque Config.hwNoiseRest : List Sample

/-- The configuration of the machine after reset: every value open, every constraint of R9 met. -/
def Config.hw : Config where
  mclk := Config.hwMclkPred + 1
  outputRate := Config.hwOutputRatePred + 1
  red := Config.hwRed
  log := Config.hwLog
  noise := Config.hwNoiseFirst :: Config.hwNoiseRest

/-- Which binary32 operation made a NaN. -/
inductive F32Op where
  | add
  | div
  | fmod
deriving DecidableEq, Repr

/-- FREE VALUE. The sign (bit 22) and the payload (bits 21..0) of the quiet NaN that an operation answers where IEEE 754 answers a
NaN (log entry 6): a function of the operation and its operands, with no value. -/
opaque Config.nanBits : F32Op → F32 → F32 → BitVec 23

/-- FREE VALUE. `f32_trunc_int` of a value that is not finite and non-negative; R12 states it only there (log entry 7). -/
opaque Config.truncOutside : F32 → Nat

/-- FREE VALUE. A waveform read at an index outside the table; 20_memory.md rule R51 says that it never occurs (log entry 7). -/
opaque Config.readOutside : Nat → Sample

end Sys2Proof
end

