-- ==== Sys2Proof/Machine/State.lean ====
section
/-!
DEFINITION. The state of one PSG core as plain data: everything that 10_state.md (rules R20 to R36) gives it, the operation in
progress (R34), and the two ends of the host interface (40_frame_timing.md rule R100): the calls that the host has made and the
results that it has been handed. `State.reset` is 70_reset_and_hazards.md rule R240.
-/

namespace Sys2Proof.Machine

/-- One voice register set `V[n]` (R20 to R30). -/
structure Voice where
  /-- Tone period divisor (R21). -/
  frequency : BitVec 12
  /-- Left selector in bits 7..4, right selector in bits 3..0 (R22). -/
  panning : BitVec 8
  /-- Volume selector, 31 loudest (R23). -/
  volume : BitVec 5
  /-- Voice audible flag (R24). -/
  enabled : Bool
  /-- Direct-audio mode flag (R25). -/
  dda : Bool
  /-- Noise flag (R26). -/
  noiseChannel : Bool
  /-- Noise playback frequency in Hz (R27). -/
  noiseFrequency : Nat
  /-- Direct-audio sample (R28). -/
  ddaValue : Sample
  /-- The wavetable (R29). -/
  wave : Vector Sample 32
  /-- Phase accumulator, the bits of a binary32 value (R30). -/
  phase : F32
deriving DecidableEq, Repr

/-- A voice after reset (R240). -/
def Voice.reset : Voice where
  frequency := 0
  panning := 0
  volume := 0
  enabled := false
  dda := false
  noiseChannel := false
  noiseFrequency := 0
  ddaValue := 0
  wave := Vector.replicate 32 0
  phase := 0

/-- The global registers `G` (R31). -/
structure Globals where
  voiceLatch : BitVec 3
  mainVolumeLeft : BitVec 4
  mainVolumeRight : BitVec 4
  waveWriteCursor : BitVec 5
  /-- Sticky: the host broke a contract that the block tolerates (60_exceptions.md rule R221). -/
  contractViolation : Bool
deriving DecidableEq, Repr

/-- The global registers after reset (R31, R240). -/
def Globals.reset : Globals where
  voiceLatch := 0
  mainVolumeLeft := 0
  mainVolumeRight := 0
  waveWriteCursor := 0
  contractViolation := false

/-- One queued register write (R32, 30_encoding.md rule R70). -/
structure Command where
  r : BitVec 4
  v : BitVec 8
  timeOffset : Int
deriving DecidableEq, Repr

/-- The frame times `T`: `T.origin` and `T.end` (R33), mathematical integers (D22). -/
structure FrameTimes where
  origin : Int
  last : Int
deriving DecidableEq, Repr

/-- The host settings `H`: the mute mask (R35) and the amplitude ceiling 0..32767 (R36). -/
structure HostSettings where
  mute : Vector Bool 8
  amp : BitVec 15
deriving DecidableEq, Repr

/-- The host settings after reset (R240). -/
def HostSettings.reset : HostSettings where
  mute := Vector.replicate 8 false
  amp := 32767

/-- The kinds of host contract breach that the block tolerates (60_exceptions.md rule R222). -/
inductive ViolationKind where
  | nonPositiveElapsed
  | positionOutOfRange
  | restoreWithQueuedCommands
deriving DecidableEq, Repr

/-- The value of one field of a snapshot as the host hands it to `restore`: it need not have the field's type
(43_serialization.md rules R201, R204). -/
inductive FieldValue where
  | int (i : Int)
  | bool (b : Bool)
  | f32 (bits : F32)
  | samples (l : List Int)
deriving DecidableEq, Repr

/-- The fields `voice[n]` of a snapshot, n in 0..5 (R201); `none` is a missing field. -/
structure VoiceRecord where
  frequency : Option FieldValue
  panning : Option FieldValue
  volume : Option FieldValue
  enabled : Option FieldValue
  dda : Option FieldValue
  ddaValue : Option FieldValue
  phase : Option FieldValue
  wave : Option FieldValue
deriving DecidableEq, Repr

/-- The noise fields `voice[n]` of a snapshot, n in 4..5 (R201). -/
structure NoiseRecord where
  noiseChannel : Option FieldValue
  noiseFrequency : Option FieldValue
deriving DecidableEq, Repr

/-- A snapshot (R200, R201). `noise` holds the noise fields of voices 4 and 5. -/
structure Snapshot where
  voice : Vector VoiceRecord 6
  noise : Vector NoiseRecord 2
  mainVolumeLeft : Option FieldValue
  mainVolumeRight : Option FieldValue
  voiceLatch : Option FieldValue
  waveWriteCursor : Option FieldValue
  voiceCount : Option FieldValue
  waveLength : Option FieldValue
deriving DecidableEq, Repr

/-- The operations that the block exposes to the host (40_frame_timing.md rule R100, 70_reset_and_hazards.md rule R241). -/
inductive HostOp where
  /-- `beginFrame(c)` (R101). -/
  | beginFrame (c : Int)
  /-- `endFrame(c)` (R102). -/
  | endFrame (c : Int)
  /-- `writeRegister(register, value, c)` (R103). -/
  | writeRegister (register : Nat) (value : Int) (c : Int)
  /-- `discardSamples()` (R104). -/
  | discardSamples
  /-- `getSamples(OUT)` with the buffer's content on entry (R105, R226). -/
  | getSamples (out : List Sample)
  /-- `snapshot()` (R200). -/
  | snapshot
  /-- `restore(s)` (R203). -/
  | restore (record : Snapshot)
  /-- `H.mute[n] <- b` (R35). -/
  | setMute (n : VoiceIndex) (b : Bool)
  /-- `H.amp <- a` (R36). -/
  | setAmp (a : Int)
  /-- `reset()` (R241). -/
  | reset
deriving DecidableEq, Repr

/-- One call by the host. `inside` is a call that the host issues before this one has returned; the block supports none
(60_exceptions.md rule R227). -/
structure HostCall where
  op : HostOp
  inside : Option HostOp := none
deriving DecidableEq, Repr

/-- What a call hands back to the host (R39: the output buffer and the snapshot). -/
inductive HostResult where
  | samples (out : List Sample)
  | snapshot (record : Snapshot)
deriving DecidableEq, Repr

/-- The operation in progress. `mixing` holds what is local to one `getSamples` call (R34): `elapsed`, the segment cursor
`start` and the output buffer. -/
inductive Activity where
  | idle
  /-- `beginFrame(c)` is draining the queue (R101). -/
  | draining (c : Int)
  | mixing (elapsed : Int) (start : Nat) (out : List Sample)
deriving DecidableEq, Repr

/-- The state of one PSG core. -/
structure State where
  /-- The configuration argument of the core (R9); no operation writes it. -/
  cfg : Config
  /-- `V[0]` .. `V[7]` (R20). -/
  voices : Vector Voice 8
  /-- `G` (R31). -/
  g : Globals
  /-- `Q`, oldest first (R32). -/
  queue : List Command
  /-- `T` (R33). -/
  time : FrameTimes
  /-- `H` (R35, R36). -/
  host : HostSettings
  /-- The operation in progress (R34). -/
  activity : Activity
  /-- The calls that the host has made and the block has not begun, oldest first (R100). -/
  calls : List HostCall
  /-- The results handed to the host, oldest first (R39). -/
  outbox : List HostResult
deriving DecidableEq, Repr

/-- The core right after reset (R240): no operation in progress, no call made. -/
def State.reset : State where
  cfg := Config.hw
  voices := Vector.replicate 8 Voice.reset
  g := Globals.reset
  queue := []
  time := ⟨0, 0⟩
  host := HostSettings.reset
  activity := .idle
  calls := []
  outbox := []

/-- The block has no faults: "The block raises no exception, trap or interrupt" (60_exceptions.md rule R220). Nothing raises one, so
the type has no constructor (safe). -/
inductive Fault where
deriving DecidableEq, Repr

/-- Where the model has no meaning and the run stops (00_scope.md rule R14). Every reason is safe: the model stops where the spec says
"refused". -/
inductive Refusal where
  /-- An instruction that has no meaning in exec yet: raised by no arm, every instruction has its meaning (safe). -/
  | notModelled (mnemonic : String)
  /-- The configuration breaks a constraint of R9; raised by every step (R228; safe). -/
  | badConfiguration
  /-- A call was issued before the one in progress returned; raised when the outer call is begun (R227; safe). -/
  | reentrantCall
  /-- `writeRegister` with a value outside 0..255 (R228; safe). -/
  | valueOutOfRange (value : Int)
  /-- `H.amp <- a` with a outside 0..32767 (R228; safe). -/
  | ampOutOfRange (a : Int)
  /-- `getSamples` with an odd `BUF_LEN` (R225; safe). -/
  | oddBufferLength (n : Nat)
  /-- `restore` of a snapshot that 43_serialization.md rule R204 refuses (safe). -/
  | badSnapshot
deriving DecidableEq, Repr

/-- The answer of a step or a meaning. -/
abbrev Answer := Host.Outcome State Fault Refusal

end Sys2Proof.Machine
end

