-- ==== Sys2Proof/Machine/Ops.lean ====
section
/-!
DEFINITION. The named operations over the state: the reads and writes of 00_scope.md rule R13 and 20_memory.md rules R51 to R53, and the
shared arithmetic of R11 and R12. The block has no exception to take and no return from one (60_exceptions.md rule R220); what stands in
that place is `violation` in Sys2Proof/Machine/Flags.lean.
-/

namespace Sys2Proof.Machine

/-- `wrap16` (R11): the 16-bit value congruent to `x` modulo 65536. -/
def wrap16 (x : Int) : Sample := BitVec.ofInt 16 x

/-- `tdiv` on integers (R12): division truncating toward zero. -/
def tdiv (a b : Int) : Int := Int.tdiv a b

/-- `V[n]` (R13). -/
def State.voice (s : State) (n : VoiceIndex) : Voice := s.voices[n.val]

/-- `V[n] <- v` (R13). -/
def State.setVoice (s : State) (n : VoiceIndex) (v : Voice) : State :=
  { s with voices := s.voices.set n.val v n.isLt }

/-- Writes fields of `V[n]`: `V[n] <- f(V[n])`. -/
def State.updateVoice (s : State) (n : VoiceIndex) (f : Voice → Voice) : State := s.setVoice n (f (s.voice n))

/-- Writes global registers: `G <- f(G)`. -/
def State.updateGlobals (s : State) (f : Globals → Globals) : State := { s with g := f s.g }

/-- `L`, the voice that registers 2 to 7 target (R31). -/
def State.latched (s : State) : VoiceIndex := s.g.voiceLatch.toFin

/-- `WaveRead(n, i)` of a voice's wavetable (R51). An index outside 0..31 never occurs, says R51; its value here is free. -/
def Voice.waveRead (v : Voice) (i : Nat) : Sample :=
  if h : i < 32 then v.wave[i] else Config.readOutside i

/-- `WaveWrite(n, i, v)` (R52). -/
def State.waveWrite (s : State) (n : VoiceIndex) (i : BitVec 5) (x : Sample) : State :=
  s.updateVoice n fun v => { v with wave := v.wave.set i.toNat x i.isLt }

/-- `NoiseRead(i)` (R51). -/
def noiseRead (c : Config) (i : Nat) : Sample := c.noise.getD i (Config.readOutside i)

/-- `OUT[i] <- wrap16(OUT[i] + t)` (R53, R168): addition of 16-bit elements is addition modulo 2^16. -/
def outAdd (out : List Sample) (i : Nat) (t : Sample) : List Sample := out.modify i (· + t)

/-- `Q.push(c)` (R13). -/
def State.push (s : State) (c : Command) : State := { s with queue := s.queue ++ [c] }

/-- Hands a result to the host. -/
def State.handOver (s : State) (r : HostResult) : State := { s with outbox := s.outbox ++ [r] }

end Sys2Proof.Machine
end

