-- ==== Sys2Proof/Machine/Flags.lean ====
section
/-!
DEFINITION. The flags: the sticky violation flag (60_exceptions.md rule R221), the conditions that the register decoder and the mixer
test, and the derived voice mode (10_state.md rule R38).
-/

namespace Sys2Proof.Machine

/-- `violation(kind)`: sets the sticky flag; "the model records no count or order of them" (R221, R231). -/
def violation (_kind : ViolationKind) (s : State) : State :=
  s.updateGlobals fun g => { g with contractViolation := true }

/-- `violation(kind)` where the condition of its rule holds. -/
def violationIf (broken : Bool) (kind : ViolationKind) (s : State) : State :=
  if broken then violation kind s else s

/-- `CTRL` resets the write cursor: the byte written is disabled and DDA (41_register_decoder.md rule R135; D19). -/
def cursorResets (en dda : Bool) : Bool := !en && dda

/-- `NOISE` honours its enable bit only for a latched voice of index 4 or more (R138; D28). -/
def noiseHonoured (ne : Bool) (latched : VoiceIndex) : Bool := ne && Nat.ble 4 latched.val

/-- The LFO is engaged: bit 7 clear, bits [1:0] not zero (R140; D18). -/
def lfoEngaged (halt : Bool) (ctl : BitVec 2) : Bool := !halt && ctl != 0

/-- The skip conditions of 42_oscillator_mixer.md rule R161. -/
def voiceSkipped (s : State) (n : VoiceIndex) : Bool :=
  s.host.mute[n.val] || !(s.voice n).enabled || (!(s.voice n).dda && (s.voice n).volume == 0)

/-- The states of the source's state machine view of a voice (R38). -/
inductive VoiceMode where
  | disabled
  | toneActive
  | directAudioActive
  | noiseActive
deriving DecidableEq, Repr

/-- The derived mode of a voice (R38); no rule of the mixer reads it. -/
def Voice.mode (v : Voice) : VoiceMode :=
  if !v.enabled then .disabled
  else if v.noiseChannel then .noiseActive
  else if v.dda then .directAudioActive
  else .toneActive

end Sys2Proof.Machine
end

