-- ==== Sys2Proof/Machine/Operands.lean ====
section
/-!
DEFINITION. Operand assembly: how the fields of a value byte become the value that a register takes (30_encoding.md rule R73,
41_register_decoder.md rules R133, R134, R137, R138).
-/

namespace Sys2Proof.Machine

/-- Frequency bits [7:0] replaced, bits [11:8] kept (R133). -/
def frequencyWithLow (old : BitVec 12) (flo : BitVec 8) : BitVec 12 := (old &&& 0xF00) ||| flo.setWidth 12

/-- Frequency bits [11:8] replaced, bits [7:0] kept (R134). -/
def frequencyWithHigh (old : BitVec 12) (fhi : BitVec 4) : BitVec 12 := (old &&& 0x0FF) ||| (fhi.setWidth 12 <<< 8)

/-- The sample of a register-6 code: `wrap16(u * 2047 - 32767)` (R73, R137; D8). -/
def sampleOfCode (u : BitVec 8) : Sample := wrap16 ((u.toNat : Int) * 2047 - 32767)

/-- A noise selector of 31 is treated as 30 (R138). -/
def foldSelector (selector : BitVec 5) : Nat := if selector.toNat = 31 then 30 else selector.toNat

/-- `tdiv(MCLK, 64 * (31 - sel))` (R138); both numbers are non-negative, so `Nat` division truncates as `tdiv` does. -/
def noisePlaybackFrequency (c : Config) (selector : BitVec 5) : Nat := c.mclk / (64 * (31 - foldSelector selector))

/-- The register index that the block keeps of the index the host passes: its low four bits (R71). -/
def registerIndex (register : Nat) : BitVec 4 := BitVec.ofNat 4 register

end Sys2Proof.Machine
end

