-- ==== Sys2Proof/Machine/GlobalRegisters.lean ====
section
/-!
DEFINITION. The meanings of the commands that write global registers: `SEL` and `MVOL` (41_register_decoder.md rules R131, R132).
-/

namespace Sys2Proof.Machine

/-- `SEL` (R131). -/
def execSel (latch : BitVec 3) (s : State) : Answer :=
  .next (s.updateGlobals fun g => { g with voiceLatch := latch })

/-- `MVOL` (R132). -/
def execMvol (left right : BitVec 4) (s : State) : Answer :=
  .next (s.updateGlobals fun g => { g with mainVolumeLeft := left, mainVolumeRight := right })

end Sys2Proof.Machine
end

