-- ==== Sys2Proof/Machine/LfoReserved.lean ====
section
/-!
DEFINITION. The meanings of the LFO commands and of the reserved register indices: `LFOD`, `LFOC`, `RSVD`
(41_register_decoder.md rules R139 to R141).
-/

namespace Sys2Proof.Machine

/-- `LFOD` (R139): no effect. -/
def execLfod (s : State) : Answer := .next s

/-- `LFOC` (R140): writes `V[1].enabled` whatever voice is latched. -/
def execLfoc (halt : Bool) (ctl : BitVec 2) (s : State) : Answer :=
  .next (s.updateVoice 1 fun v => { v with enabled := !lfoEngaged halt ctl })

/-- `RSVD`, indices 10 and 11 (R141): no effect. -/
def execRsvd10 (_r : BitVec 4) (s : State) : Answer := .next s

/-- `RSVD`, indices 12 to 15 (R141): no effect. -/
def execRsvd12 (_r : BitVec 4) (s : State) : Answer := .next s

end Sys2Proof.Machine
end

