-- ==== Sys2Proof/Machine/VoiceRegisters.lean ====
section
/-!
DEFINITION. The meanings of the commands that write the latched voice: `FRQL`, `FRQH`, `CTRL`, `PAN`, `WAVE`, `NOISE`
(41_register_decoder.md rules R133 to R138).
-/

namespace Sys2Proof.Machine

/-- `FRQL` (R133). -/
def execFrql (flo : BitVec 8) (s : State) : Answer :=
  .next (s.updateVoice s.latched fun v => { v with frequency := frequencyWithLow v.frequency flo })

/-- `FRQH` (R134). -/
def execFrqh (fhi : BitVec 4) (s : State) : Answer :=
  .next (s.updateVoice s.latched fun v => { v with frequency := frequencyWithHigh v.frequency fhi })

/-- `CTRL` (R135). -/
def execCtrl (en dda : Bool) (vol : BitVec 5) (s : State) : Answer :=
  let s' := s.updateVoice s.latched fun v => { v with volume := vol, enabled := en, dda := dda }
  .next (if cursorResets en dda then s'.updateGlobals fun g => { g with waveWriteCursor := 0 } else s')

/-- `PAN` (R136). -/
def execPan (panL panR : BitVec 4) (s : State) : Answer :=
  .next (s.updateVoice s.latched fun v => { v with panning := panL ++ panR })

/-- `WAVE` (R137). The cursor is 5 bits wide, so adding one is adding one modulo 32. -/
def execWave (u : BitVec 8) (s : State) : Answer :=
  if (s.voice s.latched).dda then
    .next (s.updateVoice s.latched fun v => { v with ddaValue := sampleOfCode u })
  else
    .next ((s.waveWrite s.latched s.g.waveWriteCursor (sampleOfCode u)).updateGlobals fun g =>
      { g with waveWriteCursor := g.waveWriteCursor + 1 })

/-- `NOISE` (R138). -/
def execNoise (ne : Bool) (selector : BitVec 5) (s : State) : Answer :=
  .next (s.updateVoice s.latched fun v =>
    { v with noiseChannel := noiseHonoured ne s.latched, noiseFrequency := noisePlaybackFrequency s.cfg selector })

end Sys2Proof.Machine
end

