-- ==== Sys2Proof/Machine/Dispatch.lean ====
section
/-!
DEFINITION. The dispatch of the register decoder (41_register_decoder.md rule R130): one arm for each constructor of Instr.
-/

namespace Sys2Proof.Machine

/-- Applies one decoded register write (R130). -/
def exec (i : Instr) (s : State) : Host.Outcome State Fault Refusal :=
  match i with
  | .sel latch => Sys2Proof.Machine.execSel latch s
  | .mvol left right => Sys2Proof.Machine.execMvol left right s
  | .frql flo => Sys2Proof.Machine.execFrql flo s
  | .frqh fhi => Sys2Proof.Machine.execFrqh fhi s
  | .ctrl en dda vol => Sys2Proof.Machine.execCtrl en dda vol s
  | .pan panL panR => Sys2Proof.Machine.execPan panL panR s
  | .wave u => Sys2Proof.Machine.execWave u s
  | .noise ne selector => Sys2Proof.Machine.execNoise ne selector s
  | .lfod => Sys2Proof.Machine.execLfod s
  | .lfoc halt ctl => Sys2Proof.Machine.execLfoc halt ctl s
  | .rsvd10 r => Sys2Proof.Machine.execRsvd10 r s
  | .rsvd12 r => Sys2Proof.Machine.execRsvd12 r s

end Sys2Proof.Machine
end

