-- ==== Sys2Proof/Machine/Float32.lean ====
section
/-!
DEFINITION. The binary32 operations of 00_scope.md rule R12, on bit patterns: `f32`, `f32_div`, `f32_add`, `f32_fmod` and `f32_trunc_int`
(IEEE 754 binary32, round to nearest, ties to even; D10).

Every finite binary32 value is an integer multiple of 2^-149, called a unit here. Each operation computes exactly on units, as integers,
and rounds once at the end. What IEEE 754 leaves open (the sign and payload of a NaN that an operation makes) is a free value.
-/

namespace Sys2Proof.Machine

/-- The sign bit. -/
def f32Sign (a : F32) : Bool := a.getLsbD 31

/-- The biased exponent, bits 30..23. -/
def f32Exponent (a : F32) : Nat := a.toNat / 2 ^ 23 % 2 ^ 8

/-- The fraction, bits 22..0. -/
def f32Fraction (a : F32) : Nat := a.toNat % 2 ^ 23

/-- Neither an infinity nor a NaN. -/
def f32Finite (a : F32) : Bool := f32Exponent a != 255

def f32IsNaN (a : F32) : Bool := f32Exponent a == 255 && f32Fraction a != 0

def f32IsInf (a : F32) : Bool := f32Exponent a == 255 && f32Fraction a == 0

/-- The magnitude of a finite value, in units of 2^-149. -/
def f32Magnitude (a : F32) : Nat :=
  if f32Exponent a = 0 then f32Fraction a else (2 ^ 23 + f32Fraction a) * 2 ^ (f32Exponent a - 1)

/-- A finite value, in units of 2^-149. -/
def f32Units (a : F32) : Int := if f32Sign a then -(f32Magnitude a : Int) else f32Magnitude a

/-- A finite value that is not below zero (-0.0 is not): what a phase may be (43_serialization.md rule R204). -/
def f32NonNegative (a : F32) : Bool := f32Finite a && decide (0 ≤ f32Units a)

/-- `num / den` rounded to the nearest integer, ties to the even one. -/
def roundHalfEven (num den : Nat) : Nat :=
  let q := num / den
  let twice := 2 * (num % den)
  if twice < den then q
  else if den < twice then q + 1
  else if q % 2 = 0 then q else q + 1

/-- The bits of the magnitude `num / den` units rounded to binary32: below 2^24 units the spacing is one unit; from there each
binade doubles it. A rounded significand of 2^24 carries into the exponent; a magnitude past the largest finite value is the
infinity. -/
def roundMagnitude (num den : Nat) : Nat :=
  let e := Nat.log2 (num / den) - 23
  min (e * 2 ^ 23 + roundHalfEven num (den * 2 ^ e)) 0x7F800000

/-- A sign and the bits of a magnitude. -/
def f32WithSign (negative : Bool) (magnitude : Nat) : F32 :=
  BitVec.ofNat 32 (if negative then 2 ^ 31 + magnitude else magnitude)

/-- Infinity of a sign. -/
def f32Inf (negative : Bool) : F32 := f32WithSign negative 0x7F800000

/-- The quiet NaN that an operation answers; its sign and payload are free (log entry 6). -/
def f32NaN (op : F32Op) (a b : F32) : F32 :=
  let free := Config.nanBits op a b
  free.extractLsb' 22 1 ++ 0x1FF#9 ++ free.extractLsb' 0 22

/-- `f32(x)` of a non-negative integer (R12). -/
def f32OfNat (x : Nat) : F32 := f32WithSign false (roundMagnitude (x * 2 ^ 149) 1)

/-- An exact number of units, rounded; `zeroSign` is the sign of an exact zero. -/
def f32OfUnits (zeroSign : Bool) (x : Int) : F32 :=
  if x = 0 then f32WithSign zeroSign 0 else f32WithSign (decide (x < 0)) (roundMagnitude x.natAbs 1)

/-- `f32_add(a, b)` (R12). An exact zero sum is +0.0 unless both operands are negative zeros. -/
def f32Add (a b : F32) : F32 :=
  if f32IsNaN a || f32IsNaN b then f32NaN .add a b
  else if f32IsInf a then (if f32IsInf b && (f32Sign a != f32Sign b) then f32NaN .add a b else a)
  else if f32IsInf b then b
  else f32OfUnits (f32Sign a && f32Sign b) (f32Units a + f32Units b)

/-- `f32_div(a, b)` (R12). -/
def f32Div (a b : F32) : F32 :=
  let negative := f32Sign a != f32Sign b
  if f32IsNaN a || f32IsNaN b then f32NaN .div a b
  else if f32IsInf a then (if f32IsInf b then f32NaN .div a b else f32Inf negative)
  else if f32IsInf b then f32WithSign negative 0
  else if f32Magnitude b = 0 then (if f32Magnitude a = 0 then f32NaN .div a b else f32Inf negative)
  else f32WithSign negative (roundMagnitude (f32Magnitude a * 2 ^ 149) (f32Magnitude b))

/-- `f32_fmod(a, b)` (R12): the remainder of the truncated quotient, with the sign of `a`; always exact. -/
def f32Fmod (a b : F32) : F32 :=
  if f32IsNaN a || f32IsNaN b || f32IsInf a || f32Magnitude b = 0 then f32NaN .fmod a b
  else if f32IsInf b then a
  else f32WithSign (f32Sign a) (roundMagnitude (f32Magnitude a % f32Magnitude b) 1)

/-- `f32_trunc_int(a)`: the integer part of a finite non-negative value (R12); of any other value it is free (log entry 7). -/
def f32TruncInt (a : F32) : Nat :=
  if f32NonNegative a then f32Magnitude a / 2 ^ 149 else Config.truncOutside a

end Sys2Proof.Machine
end

