-- ==== Sys2Proof/Machine/Mixer.lean ====
section
/-!
DEFINITION. The oscillator and the mixer: `MixSegment` and `MixVoice` of 42_oscillator_mixer.md (rules R160 to R174).
-/

namespace Sys2Proof.Machine

/-- `WL`, the length of the active waveform (R163): `NOISE_LEN` for a noise voice, else 32. -/
def waveformLength (c : Config) (v : Voice) : Nat := if v.noiseChannel then c.noiseLen else 32

/-- `W(i)`, the active waveform (R163): the shared noise waveform for a noise voice, else the voice's own wavetable. -/
def waveformRead (c : Config) (v : Voice) (i : Nat) : Sample := if v.noiseChannel then noiseRead c i else v.waveRead i

/-- The playback frequency f in Hz (R164); `none` is a tone voice silenced by a frequency register of 0 or 1. All numbers are
non-negative, so `Nat` division is `tdiv`. -/
def playbackFrequency (c : Config) (v : Voice) : Option Nat :=
  if v.noiseChannel then some v.noiseFrequency
  else if v.dda then some 0
  else if v.frequency.toNat ≤ 1 then none
  else some (c.mclk / (32 * v.frequency.toNat))

/-- The phase increment of one output pair (R165): `f32_div(f32(WL), f32_div(f32(OUTPUT_RATE), f32(f)))`. -/
def phaseRate (c : Config) (f wl : Nat) : F32 :=
  f32Div (f32OfNat wl) (f32Div (f32OfNat c.outputRate) (f32OfNat f))

/-- `RED(selector)` (R169, R9). -/
def reduction (c : Config) (selector : BitVec 4) : Nat := (c.red[selector.toNat]'selector.isLt).toNat

/-- The level of one output channel (R170): `max(0, 31 - global - pan - volAtt)`. Subtraction on `Nat` stops at 0, and that is the
one clamp of the rule. -/
def channelLevel (globalAtt panAtt : Nat) (volume : BitVec 5) : Nat :=
  31 - globalAtt - panAtt - (31 - volume.toNat)

/-- `LOG(level)` (R171, R9). A level is at most 31 (R170), so the remainder is the level. -/
def gainOfLevel (c : Config) (level : Nat) : BitVec 8 := c.log[level % 32]'(Nat.mod_lt _ (by decide))

/-- `gainL` of a voice (R169 to R171): the left selectors are `G.mainVolumeLeft` and `panning[7:4]`. -/
def gainLeft (c : Config) (g : Globals) (v : Voice) : BitVec 8 :=
  gainOfLevel c (channelLevel (reduction c g.mainVolumeLeft) (reduction c (v.panning.extractLsb' 4 4)) v.volume)

/-- `gainR` of a voice (R169 to R171): the right selectors are `G.mainVolumeRight` and `panning[3:0]`. -/
def gainRight (c : Config) (g : Globals) (v : Voice) : BitVec 8 :=
  gainOfLevel c (channelLevel (reduction c g.mainVolumeRight) (reduction c (v.panning.extractLsb' 0 4)) v.volume)

/-- `Scale(s, g)` (R167; D12). -/
def scaleSample (amp : BitVec 15) (x : Sample) (gain : BitVec 8) : Int :=
  tdiv (tdiv (tdiv (x.toInt * (gain.toNat : Int)) 255) 6 * (amp.toNat : Int)) 32767

/-- The sample that a voice outputs at a phase (R166): `ddaValue` of a direct-audio voice, else the waveform's entry at the integer
part of the phase. -/
def voiceSample (c : Config) (v : Voice) (phase : F32) : Sample :=
  if v.dda then v.ddaValue else waveformRead c v (f32TruncInt phase)

/-- One contribution to each element of the pair at `i`, left then right (R166). -/
def mixPair (amp : BitVec 15) (gainL gainR : BitVec 8) (x : Sample) (i : Nat) (out : List Sample) : List Sample :=
  outAdd (outAdd out i (wrap16 (scaleSample amp x gainL))) (i + 1) (wrap16 (scaleSample amp x gainR))

/-- The phase after one pair (R166): `f32_fmod(f32_add(phase, rate), wl)` of the pre-wrapped phase. -/
def advancePhase (wl rate phase : F32) : F32 := f32Fmod (f32Add phase rate) wl

/-- The per-pair loop of R166 for `pairs` pairs from element `i`: pre-wrap, sample, two contributions, advance and post-wrap. -/
def mixPairs (c : Config) (v : Voice) (amp : BitVec 15) (wl rate : F32) (gainL gainR : BitVec 8) :
    (pairs i : Nat) → F32 → List Sample → F32 × List Sample
  | 0, _, phase, out => (phase, out)
  | pairs + 1, i, phase, out =>
    let wrapped := f32Fmod phase wl
    mixPairs c v amp wl rate gainL gainR pairs (i + 2) (advancePhase wl rate wrapped)
      (mixPair amp gainL gainR (voiceSample c v wrapped) i out)

/-- `MixVoice(n, a, b)` (R161 to R171). -/
def mixVoice (n : VoiceIndex) (a b : Nat) (s : State) (out : List Sample) : State × List Sample :=
  if voiceSkipped s n then (s, out)
  else
    match playbackFrequency s.cfg (s.voice n) with
    | none => (s, out)
    | some f =>
      let v := s.voice n
      let length := waveformLength s.cfg v
      let mixed := mixPairs s.cfg v s.host.amp (f32OfNat length) (phaseRate s.cfg f length)
        (gainLeft s.cfg s.g v) (gainRight s.cfg s.g v) ((b - a) / 2) a v.phase out
      (s.setVoice n { v with phase := mixed.1 }, mixed.2)

/-- The `NMIX` = 6 mixed voices, in index order (R160, D29). -/
def mixedVoices : List VoiceIndex := [0, 1, 2, 3, 4, 5]

/-- `MixVoice` of each voice of a list, in order. -/
def mixVoices (ns : List VoiceIndex) (a b : Nat) (s : State) (out : List Sample) : State × List Sample :=
  ns.foldl (fun mixed n => mixVoice n a b mixed.1 mixed.2) (s, out)

/-- `MixSegment(a, b)` (R160). -/
def mixSegment (a b : Nat) (s : State) (out : List Sample) : State × List Sample := mixVoices mixedVoices a b s out

end Sys2Proof.Machine
end

