-- ==== Sys2Proof/Machine/Snapshots.lean ====
section
/-!
DEFINITION. `snapshot()` and `restore(s)` (43_serialization.md rules R200 to R204).
-/

namespace Sys2Proof.Machine

/-- A field of type "unsigned, `w` bits" (R201); `none` where it is missing or outside its type (R204). -/
def unsignedField (w : Nat) (x : Option FieldValue) : Option (BitVec w) :=
  match x with
  | some (.int i) => if 0 ≤ i ∧ i < 2 ^ w then some (BitVec.ofInt w i) else none
  | _ => none

/-- A field of type "Boolean". -/
def boolField (x : Option FieldValue) : Option Bool :=
  match x with
  | some (.bool b) => some b
  | _ => none

/-- A field of type "unsigned integer". -/
def naturalField (x : Option FieldValue) : Option Nat :=
  match x with
  | some (.int i) => if 0 ≤ i then some i.toNat else none
  | _ => none

/-- A signed 16-bit value. -/
def sampleOfInt (i : Int) : Option Sample := if -32768 ≤ i ∧ i ≤ 32767 then some (wrap16 i) else none

/-- A field of type "signed 16-bit". -/
def sampleField (x : Option FieldValue) : Option Sample :=
  match x with
  | some (.int i) => sampleOfInt i
  | _ => none

/-- The samples of a list, where each is a signed 16-bit value. -/
def samplesOfInts : List Int → Option (List Sample)
  | [] => some []
  | i :: rest =>
    match sampleOfInt i, samplesOfInts rest with
    | some x, some xs => some (x :: xs)
    | _, _ => none

/-- A field of type "32 signed 16-bit". -/
def waveField (x : Option FieldValue) : Option (Vector Sample 32) :=
  match x with
  | some (.samples l) =>
    match samplesOfInts l with
    | some xs => if h : xs.length = 32 then some ⟨xs.toArray, h⟩ else none
    | none => none
  | _ => none

/-- A field of type "binary32": a phase that is negative, infinite or NaN is refused, any other is accepted (R204). -/
def phaseField (x : Option FieldValue) : Option F32 :=
  match x with
  | some (.f32 bits) => if f32NonNegative bits then some bits else none
  | _ => none

/-- A constant field holds the build's value (R201, R204). -/
def constantField (expected : Int) (x : Option FieldValue) : Option Unit := if x = some (.int expected) then some () else none

/-- The snapshot fields of a mixed voice (R201). -/
def VoiceRecord.ofVoice (v : Voice) : VoiceRecord where
  frequency := some (.int v.frequency.toNat)
  panning := some (.int v.panning.toNat)
  volume := some (.int v.volume.toNat)
  enabled := some (.bool v.enabled)
  dda := some (.bool v.dda)
  ddaValue := some (.int v.ddaValue.toInt)
  phase := some (.f32 v.phase)
  wave := some (.samples (v.wave.toList.map BitVec.toInt))

/-- The snapshot fields of a noise-capable voice (R201). -/
def NoiseRecord.ofVoice (v : Voice) : NoiseRecord where
  noiseChannel := some (.bool v.noiseChannel)
  noiseFrequency := some (.int v.noiseFrequency)

/-- `snapshot()` (R200, R201). -/
def takeSnapshot (s : State) : Snapshot where
  voice := #v[.ofVoice (s.voice 0), .ofVoice (s.voice 1), .ofVoice (s.voice 2), .ofVoice (s.voice 3), .ofVoice (s.voice 4),
    .ofVoice (s.voice 5)]
  noise := #v[.ofVoice (s.voice 4), .ofVoice (s.voice 5)]
  mainVolumeLeft := some (.int s.g.mainVolumeLeft.toNat)
  mainVolumeRight := some (.int s.g.mainVolumeRight.toNat)
  voiceLatch := some (.int s.g.voiceLatch.toNat)
  waveWriteCursor := some (.int s.g.waveWriteCursor.toNat)
  voiceCount := some (.int 6)
  waveLength := some (.int 32)

/-- `V[n].(frequency, panning, volume, enabled, dda, ddaValue, phase, wave) <- s.voice[n]` (R203), or `none` where R204 refuses a field. -/
def VoiceRecord.into (record : VoiceRecord) (v : Voice) : Option Voice := do
  let frequency ← unsignedField 12 record.frequency
  let panning ← unsignedField 8 record.panning
  let volume ← unsignedField 5 record.volume
  let enabled ← boolField record.enabled
  let dda ← boolField record.dda
  let ddaValue ← sampleField record.ddaValue
  let phase ← phaseField record.phase
  let wave ← waveField record.wave
  some { v with frequency, panning, volume, enabled, dda, ddaValue, phase, wave }

/-- `V[n].(noiseChannel, noiseFrequency) <- s.voice[n]` (R203). -/
def NoiseRecord.into (record : NoiseRecord) (v : Voice) : Option Voice := do
  let noiseChannel ← boolField record.noiseChannel
  let noiseFrequency ← naturalField record.noiseFrequency
  some { v with noiseChannel, noiseFrequency }

/-- Writes the voice fields of one voice. -/
def restoreVoice (n : VoiceIndex) (record : VoiceRecord) (s : State) : Option State := do
  let v ← record.into (s.voice n)
  some (s.setVoice n v)

/-- Writes the noise fields of one voice. -/
def restoreNoise (n : VoiceIndex) (record : NoiseRecord) (s : State) : Option State := do
  let v ← record.into (s.voice n)
  some (s.setVoice n v)

/-- Writes the global fields. -/
def restoreGlobals (record : Snapshot) (s : State) : Option State := do
  let mainVolumeLeft ← unsignedField 4 record.mainVolumeLeft
  let mainVolumeRight ← unsignedField 4 record.mainVolumeRight
  let voiceLatch ← unsignedField 3 record.voiceLatch
  let waveWriteCursor ← unsignedField 5 record.waveWriteCursor
  some (s.updateGlobals fun g => { g with mainVolumeLeft, mainVolumeRight, voiceLatch, waveWriteCursor })

/-- Every field of R201 written back, or `none` where R204 refuses the snapshot. -/
def restoreFields (record : Snapshot) (s : State) : Option State := do
  constantField 6 record.voiceCount
  constantField 32 record.waveLength
  let s ← restoreVoice 0 record.voice[0] s
  let s ← restoreVoice 1 record.voice[1] s
  let s ← restoreVoice 2 record.voice[2] s
  let s ← restoreVoice 3 record.voice[3] s
  let s ← restoreVoice 4 record.voice[4] s
  let s ← restoreVoice 5 record.voice[5] s
  let s ← restoreNoise 4 record.noise[0] s
  let s ← restoreNoise 5 record.noise[1] s
  restoreGlobals record s

/-- `restore(s)` (R203): the queue is emptied; a non-empty one is a violation. -/
def restoreSnapshot (record : Snapshot) (s : State) : Answer :=
  match restoreFields record { violationIf (!s.queue.isEmpty) .restoreWithQueuedCommands s with queue := [] } with
  | some t => .next t
  | none => .refused .badSnapshot

end Sys2Proof.Machine
end

