-- ==== Sys2Proof/Machine/Sequencer.lean ====
section
/-!
DEFINITION. The frame/timing controller as the steps it takes: the host operations of 40_frame_timing.md (rules R100 to R105), begun one
by one from the calls that the host has made, with the queue of `beginFrame` and `getSamples` consumed one command a step.

The whole operations, as the spec writes them, stand in Sys2Proof/Machine/WholeCalls.lean.
-/

namespace Sys2Proof.Machine

/-- `applyRegister(r, v)` (41_register_decoder.md rule R130): the meaning of the decoded command. -/
def applyRegister (r : BitVec 4) (v : BitVec 8) (s : State) : Answer := exec (decodeCommand r v) s

/-- The even position of a time offset before the clamp (R105): `floor(timeOffset * BUF_LEN / elapsed)` rounded down to even. -/
def rawPosition (timeOffset : Int) (bufLen : Nat) (elapsed : Int) : Int :=
  let p := Int.fdiv (timeOffset * bufLen) elapsed
  p - p % 2

/-- The position is outside `[start, BUF_LEN]` (R105, R224). -/
def positionBroken (p : Int) (start bufLen : Nat) : Bool := decide (p < start) || decide (bufLen < p)

/-- `clamp(p, start, BUF_LEN)` (R105, R12). -/
def clampPosition (p : Int) (start bufLen : Nat) : Nat := (min (max p start) bufLen).toNat

/-- `elapsed` of a `getSamples` call, at least 1 (R105, R223). -/
def clampElapsed (elapsed : Int) : Int := if elapsed ≤ 0 then 1 else elapsed

/-- `writeRegister(register, value, c)` (R103). -/
def writeRegister (register : Nat) (value c : Int) (s : State) : Answer :=
  if 0 ≤ value ∧ value ≤ 255 then
    .next (s.push ⟨registerIndex register, BitVec.ofInt 8 value, c - s.time.origin⟩)
  else .refused (.valueOutOfRange value)

/-- The start of `getSamples(OUT)` (R105): the elapsed length, and its violation. An odd buffer is refused (R225). -/
def beginSamples (out : List Sample) (s : State) : Answer :=
  if out.length % 2 = 1 then .refused (.oddBufferLength out.length)
  else
    let elapsed := s.time.last - s.time.origin
    .next { violationIf (decide (elapsed ≤ 0)) .nonPositiveElapsed s with
      activity := .mixing (clampElapsed elapsed) 0 out }

/-- `H.amp <- a` (10_state.md rule R36); a value outside 0..32767 is refused (R228). -/
def setAmp (a : Int) (s : State) : Answer :=
  if 0 ≤ a ∧ a ≤ 32767 then .next { s with host := { s.host with amp := BitVec.ofInt 15 a } }
  else .refused (.ampOutOfRange a)

/-- `reset()` (70_reset_and_hazards.md rules R240, R241): every entry of R240; the configuration and the host interface's two lists
are no entry of it. -/
def resetCore (s : State) : State := { State.reset with cfg := s.cfg, calls := s.calls, outbox := s.outbox }

/-- Runs a host operation that is one step, or begins one that takes more (R100). -/
def beginOp (op : HostOp) (s : State) : Answer :=
  match op with
  | .beginFrame c => .next { s with activity := .draining c }
  | .endFrame c => .next { s with time := { s.time with last := c } }
  | .writeRegister register value c => writeRegister register value c s
  | .discardSamples => .next s
  | .getSamples out => beginSamples out s
  | .snapshot => .next (s.handOver (.snapshot (takeSnapshot s)))
  | .restore record => restoreSnapshot record s
  | .setMute n b => .next { s with host := { s.host with mute := s.host.mute.set n.val b n.isLt } }
  | .setAmp a => setAmp a s
  | .reset => .next (resetCore s)

/-- No operation is in progress: the block waits for the host (R241), or begins its oldest call. A call with another call inside it
is refused (60_exceptions.md rule R227). -/
def beginCall (s : State) : Answer :=
  match s.calls with
  | [] => .next s
  | call :: rest => if call.inside.isSome then .refused .reentrantCall else beginOp call.op { s with calls := rest }

/-- One step of `beginFrame(c)` (R101): the oldest command is applied without mixing; with none left, `T.origin` is recorded. -/
def drainStep (c : Int) (s : State) : Answer :=
  match s.queue with
  | [] => .next { s with time := { s.time with origin := c }, activity := .idle }
  | cmd :: rest => applyRegister cmd.r cmd.v { s with queue := rest }

/-- The state in which `getSamples` applies its oldest command (R105): the segment before the command is mixed under the
state that stood before it, and the segment cursor stands at the command's position. -/
def mixToCommand (elapsed : Int) (start : Nat) (out : List Sample) (cmd : Command) (s : State) : State :=
  let p := rawPosition cmd.timeOffset out.length elapsed
  let position := clampPosition p start out.length
  let mixed := mixSegment start position (violationIf (positionBroken p start out.length) .positionOutOfRange s) out
  { mixed.1 with activity := .mixing elapsed position mixed.2 }

/-- The end of `getSamples` (R105): the remaining segment is mixed and the buffer handed back. -/
def finishSamples (start : Nat) (out : List Sample) (s : State) : State :=
  let mixed := mixSegment start out.length s out
  { mixed.1 with activity := .idle }.handOver (.samples mixed.2)

/-- One step of `getSamples` (R105). -/
def mixStep (elapsed : Int) (start : Nat) (out : List Sample) (s : State) : Answer :=
  match s.queue with
  | [] => .next (finishSamples start out s)
  | cmd :: rest => applyRegister cmd.r cmd.v (mixToCommand elapsed start out cmd { s with queue := rest })

end Sys2Proof.Machine
end

