-- ==== Sys2Proof/Machine/Step.lean ====
section
/-!
DEFINITION. One step of the machine, and where its next instruction is fetched: the oldest command of the queue, while `beginFrame` drains
it or `getSamples` splices it (10_state.md rule R34: no program counter; 20_memory.md rule R63: no instruction fetch).
-/

namespace Sys2Proof.Machine

/-- One step. A configuration that breaks a constraint is refused (60_exceptions.md rule R228). -/
def step (s : State) : Host.Outcome State Fault Refusal :=
  if s.cfg.wf then
    match s.activity with
    | .idle => beginCall s
    | .draining c => drainStep c s
    | .mixing elapsed start out => mixStep elapsed start out s
  else .refused .badConfiguration

/-- `s` with the instruction of the word `w` as its oldest queued command, and a `beginFrame` drain in progress, so that the next step
applies exactly it (log entry 2: this stands for the host's `writeRegister` and `beginFrame`). -/
def State.withFetchWord (s : State) (nbits w : Nat) : State :=
  let cw : CommandWord := BitVec.ofNat 12 (w % 2 ^ nbits)
  { s with
    queue := ⟨CommandWord.index cw, CommandWord.value cw, 0⟩ :: s.queue
    activity := match s.activity with
      | .draining c => .draining c
      | _ => .draining s.time.origin }

end Sys2Proof.Machine
end

