-- ==== Sys2Proof/Machine/Pseudo.lean ====
section
/-!
DEFINITION. The pseudo-instructions of 30_encoding.md rule R78, each defined by its expansion into commands issued at one cycle.
-/

namespace Sys2Proof.Machine

/-- The pseudo-instructions (R78). -/
inductive Pseudo where
  /-- `FREQ f`. -/
  | freq (f : BitVec 12)
  /-- `NOTEON vol`. -/
  | noteOn (vol : BitVec 5)
  | noteOff
  | waveReset
  /-- `DDAON vol`. -/
  | ddaOn (vol : BitVec 5)
  /-- `WAVELOAD u0, ..., u31`. -/
  | waveLoad (codes : Vector (BitVec 8) 32)
  /-- `NOISEON sel`. -/
  | noiseOn (selector : BitVec 5)
deriving DecidableEq, Repr

/-- The commands that a pseudo-instruction stands for, in order (R78). -/
def expand : Pseudo → List Instr
  | .freq f => [decodeCommand 2 (f.extractLsb' 0 8), decodeCommand 3 (0#4 ++ f.extractLsb' 8 4)]
  | .noteOn vol => [decodeCommand 4 (0x80 + vol.setWidth 8)]
  | .noteOff => [decodeCommand 4 0x00]
  | .waveReset => [decodeCommand 4 0x40]
  | .ddaOn vol => [decodeCommand 4 (0xC0 + vol.setWidth 8)]
  | .waveLoad codes => decodeCommand 4 0x40 :: decodeCommand 4 0x00 :: codes.toList.map (decodeCommand 6)
  | .noiseOn selector => [decodeCommand 7 (0x80 + selector.setWidth 8)]

end Sys2Proof.Machine
end

