-- ==== Sys2Proof/Machine/WholeCalls.lean ====
section
/-!
DEFINITION. `beginFrame` and `getSamples` as 40_frame_timing.md writes them, each as one function over the whole queue (rules R101, R105).
The machine takes them one command a step (Sys2Proof/Machine/Sequencer.lean); statements compare the two.
-/

namespace Sys2Proof.Machine

/-- The loop of `beginFrame` (R101): every command applied in FIFO order, without mixing. -/
def applyQueue : List Command → State → Answer
  | [], s => .next s
  | cmd :: rest, s =>
    match applyRegister cmd.r cmd.v s with
    | .next t => applyQueue rest t
    | stop => stop

/-- `beginFrame(c)` (R101). -/
def wholeBeginFrame (c : Int) (s : State) : Answer :=
  match applyQueue s.queue { s with queue := [] } with
  | .next t => .next { t with time := { t.time with origin := c } }
  | stop => stop

/-- The loop of `getSamples` (R105) from the segment cursor `start`, and its last segment. -/
def spliceQueue (elapsed : Int) : List Command → Nat → State → List Sample → Answer
  | [], start, s, out =>
    let mixed := mixSegment start out.length s out
    .next (mixed.1.handOver (.samples mixed.2))
  | cmd :: rest, start, s, out =>
    let p := rawPosition cmd.timeOffset out.length elapsed
    let position := clampPosition p start out.length
    let mixed := mixSegment start position (violationIf (positionBroken p start out.length) .positionOutOfRange s) out
    match applyRegister cmd.r cmd.v mixed.1 with
    | .next t => spliceQueue elapsed rest position t mixed.2
    | stop => stop

/-- `getSamples(OUT)` (R105) with an even buffer. -/
def wholeGetSamples (out : List Sample) (s : State) : Answer :=
  let elapsed := s.time.last - s.time.origin
  spliceQueue (clampElapsed elapsed) s.queue 0
    { violationIf (decide (elapsed ≤ 0)) .nonPositiveElapsed s with queue := [] } out

end Sys2Proof.Machine
end

