-- ==== Sys2Proof/Safety.lean ====
section
/-!
DEFINITION. What counts as a safe state, and the terms that the statements about the machine use: which parts of a state two states may
differ in, which records `restore` accepts, and the state that the output can depend on.
-/

namespace Sys2Proof.Machine

/-- The relations between fields that every step keeps.
* The noise flag of voices 0 to 3 is false (10_state.md rule R26).
* During `getSamples` the elapsed length is at least 1, the buffer is even, and the segment cursor is even and inside the buffer
  (40_frame_timing.md rule R105, 20_memory.md rule R55). -/
def SafeState (s : State) : Prop :=
  (∀ n : VoiceIndex, n.val < 4 → (s.voice n).noiseChannel = false) ∧
  match s.activity with
  | .idle => True
  | .draining _ => True
  | .mixing elapsed start out => 1 ≤ elapsed ∧ start % 2 = 0 ∧ out.length % 2 = 0 ∧ start ≤ out.length

/-- `t` is `s` but for the voice register set of `n`. -/
def SameButVoice (n : VoiceIndex) (s t : State) : Prop :=
  t = { s with voices := t.voices } ∧ ∀ m, m ≠ n → t.voice m = s.voice m

/-- `t` is `s` but for the voice register set of `n` and the write cursor. -/
def SameButVoiceAndCursor (n : VoiceIndex) (s t : State) : Prop :=
  t = { s with voices := t.voices, g := { s.g with waveWriteCursor := t.g.waveWriteCursor } } ∧
    ∀ m, m ≠ n → t.voice m = s.voice m

/-- Applies commands in order. -/
def applyAll : List Instr → State → Answer
  | [], s => .next s
  | i :: rest, s =>
    match exec i s with
    | .next t => applyAll rest t
    | stop => stop

/-- The bits of the value byte that register index `r` reads (30_encoding.md rule R72). -/
def listedBits (r : BitVec 4) : BitVec 8 :=
  match r.toNat with
  | 0 => 0b00000111
  | 1 => 0b11111111
  | 2 => 0b11111111
  | 3 => 0b00001111
  | 4 => 0b11011111
  | 5 => 0b11111111
  | 6 => 0b11111111
  | 7 => 0b10011111
  | 9 => 0b10000011
  | _ => 0

/-- A phase that `restore` accepts: finite, and not below zero (43_serialization.md rule R204; -0.0 is not below zero, log entry 5). -/
def AcceptedPhase (phase : F32) : Prop := f32Exponent phase ≠ 255 ∧ (phase.getLsbD 31 = false ∨ phase = 0x80000000#32)

/-- The voice fields hold values of their types (43_serialization.md rules R201, R204). -/
def AcceptedVoice (record : VoiceRecord) : Prop :=
  ∃ (frequency panning volume ddaValue : Int) (enabled dda : Bool) (phase : F32) (wave : List Int),
    record = ⟨some (.int frequency), some (.int panning), some (.int volume), some (.bool enabled), some (.bool dda),
      some (.int ddaValue), some (.f32 phase), some (.samples wave)⟩ ∧
    (0 ≤ frequency ∧ frequency ≤ 4095) ∧ (0 ≤ panning ∧ panning ≤ 255) ∧ (0 ≤ volume ∧ volume ≤ 31) ∧
    (-32768 ≤ ddaValue ∧ ddaValue ≤ 32767) ∧ AcceptedPhase phase ∧
    wave.length = 32 ∧ ∀ x ∈ wave, -32768 ≤ x ∧ x ≤ 32767

/-- The noise fields hold values of their types (R201, R204). -/
def AcceptedNoise (record : NoiseRecord) : Prop :=
  ∃ (flag : Bool) (frequency : Int), record = ⟨some (.bool flag), some (.int frequency)⟩ ∧ 0 ≤ frequency

/-- A global field holds an unsigned value up to `top` (R201, R204). -/
def AcceptedUnsigned (top : Int) (x : Option FieldValue) : Prop := ∃ i : Int, x = some (.int i) ∧ 0 ≤ i ∧ i ≤ top

/-- A snapshot that `restore` does not refuse (R204). -/
def AcceptedSnapshot (record : Snapshot) : Prop :=
  record.voiceCount = some (.int 6) ∧ record.waveLength = some (.int 32) ∧
  (∀ n : Fin 6, AcceptedVoice (record.voice[n.val])) ∧ (∀ n : Fin 2, AcceptedNoise (record.noise[n.val])) ∧
  AcceptedUnsigned 15 record.mainVolumeLeft ∧ AcceptedUnsigned 15 record.mainVolumeRight ∧
  AcceptedUnsigned 7 record.voiceLatch ∧ AcceptedUnsigned 31 record.waveWriteCursor

/-- `r` is the value of the given sign and of magnitude `num / den` (in units of 2^-149), rounded to binary32 as IEEE 754 rounds to nearest
with ties to even (00_scope.md rule R12): from half a unit in the last place above the largest finite magnitude on it is the infinity;
below that no finite magnitude is nearer, and of two equally near ones the one with the even last bit is taken. -/
def RoundsTo (negative : Bool) (num den : Nat) (r : F32) : Prop :=
  f32Sign r = negative ∧
  (den * ((2 ^ 25 - 1) * 2 ^ 252) ≤ num → f32IsInf r = true) ∧
  (num < den * ((2 ^ 25 - 1) * 2 ^ 252) → f32Finite r = true ∧
    ∀ m : F32, f32Finite m = true →
      ((f32Magnitude r * den : Nat) - (num : Int)).natAbs ≤ ((f32Magnitude m * den : Nat) - (num : Int)).natAbs ∧
      (((f32Magnitude r * den : Nat) - (num : Int)).natAbs = ((f32Magnitude m * den : Nat) - (num : Int)).natAbs →
        f32Magnitude m ≠ f32Magnitude r → r.toNat % 2 = 0))

/-- The part of a tone voice that the output can depend on: its noise frequency counts only under its noise flag
(42_oscillator_mixer.md rule R164). -/
def Voice.audible (v : Voice) : Voice := if v.noiseChannel then v else { v with noiseFrequency := 0 }

/-- Two states that differ at most in what the output cannot depend on: `V[6]` and `V[7]` but for their `dda` flags (which decide
whether a `WAVE` moves the shared cursor, 41_register_decoder.md rule R137), the noise frequencies of voices 0 to 3 while their
noise flags are false, and the violation flag (43_serialization.md rules R202, R205; 60_exceptions.md rule R221). -/
def SameAudible (s t : State) : Prop :=
  (∀ n : VoiceIndex, n.val < 4 → (s.voice n).audible = (t.voice n).audible) ∧
  s.voice 4 = t.voice 4 ∧ s.voice 5 = t.voice 5 ∧
  (s.voice 6).dda = (t.voice 6).dda ∧ (s.voice 7).dda = (t.voice 7).dda ∧
  { s with voices := t.voices, g := { s.g with contractViolation := t.g.contractViolation } } = t

/-- Two states that differ at most in `V[6]` and `V[7]`, whatever is in them (10_state.md rule R20), in the noise frequencies of voices 0
to 3 while their noise flags are false (R26), and in the violation flag (60_exceptions.md rule R221). -/
def SameMixed (s t : State) : Prop :=
  (∀ n : VoiceIndex, n.val < 4 → (s.voice n).audible = (t.voice n).audible) ∧
  s.voice 4 = t.voice 4 ∧ s.voice 5 = t.voice 5 ∧
  { s with voices := t.voices, g := { s.g with contractViolation := t.g.contractViolation } } = t

/-- The next step applies a `WAVE` to a latched voice that is never mixed. It is the one step that reads `V[6]` or `V[7]` and writes
state that the mix can come to depend on: the shared write cursor (41_register_decoder.md rule R137). -/
def AppliesUnmixedWave (s : State) : Prop :=
  s.activity ≠ .idle ∧ 6 ≤ s.g.voiceLatch.toNat ∧ ∃ cmd rest, s.queue = cmd :: rest ∧ cmd.r = 6

/-- Where the next step of `s` applies a `WAVE` to voice 6 or 7, that voice is in direct-audio mode in both states or in neither. -/
def UnmixedWaveAgrees (s t : State) : Prop :=
  AppliesUnmixedWave s → (s.voice s.latched).dda = (t.voice s.latched).dda

end Sys2Proof.Machine
end

