-- ==== Sys2Proof/Certificates/Slice0/Obligations.lean ====
section
/-!
DEFINITION. The statements about the PSG core, for the provers. Each docstring names the rule of spec/ it formalises, or the sections and
the log entries it rests on. The kernel's own division and remainder on Nat are floor division and remainder; `Int.bmod x 65536`
is the integer in -32768..32767 congruent to x modulo 65536 (`wrap16` of 00_scope.md rule R11).
-/

open Sys2Proof Sys2Proof.Machine

/-! ### Encoding -/

/-- Every well-formed command is read back from its own command word (30_encoding.md rules R70, R72, R74; the packing of the word is
decision D24, log entry 4), and every command word decodes to a well-formed command. -/
def Obligations.EncodeThenDecodeIsTheCommand : Prop :=
  (∀ i : Instr, i.WellFormed → decode (encode i) = i) ∧
  (∀ i : Instr, i.WellFormed → decodeTableWord 16 (encode i).toNat = some i) ∧
  ∀ cw : CommandWord, (decode cw).WellFormed

/-- R74: every 12-bit word matches exactly one row of the opcode map, and the decoder reads a command of that row. -/
def Obligations.EveryCommandWordHasOneRow : Prop :=
  opcodeRows.map (fun row => (row.mnemonic, row.matchBits.toNat, row.mask.toNat)) =
    [("SEL", 0x000, 0xF00), ("MVOL", 0x100, 0xF00), ("FRQL", 0x200, 0xF00), ("FRQH", 0x300, 0xF00), ("CTRL", 0x400, 0xF00),
     ("PAN", 0x500, 0xF00), ("WAVE", 0x600, 0xF00), ("NOISE", 0x700, 0xF00), ("LFOD", 0x800, 0xF00), ("LFOC", 0x900, 0xF00),
     ("RSVD", 0xA00, 0xE00), ("RSVD", 0xC00, 0xC00)] ∧
  ∀ (cw : CommandWord) (k : Fin 12), (opcodeRows.get k).holds cw = true ↔ k = (decode cw).rowNumber

/-- R72: two value bytes decode to the same command exactly when they agree on the bits that the rule lists for the register; a bit
that is not listed is ignored. (The fields of register 9 are decision D18, log entry 4.) -/
def Obligations.OnlyTheListedBitsAreDecoded : Prop :=
  ∀ (r : BitVec 4) (v w : BitVec 8), decodeCommand r v = decodeCommand r w ↔ v &&& listedBits r = w &&& listedBits r

/-- Words written out from the field layouts of R72 and R74, one or two of each row, decode to the commands they stand for; the index is
masked to four bits (R71). The packing of index and value into one word is decision D24, and the fields of the register-9 word are
decision D18 (both log entry 4). -/
def Obligations.WrittenOutWordsDecode : Prop :=
  decode 0b0000_00001101#12 = .sel 5 ∧ decode 0b0001_11110011#12 = .mvol 15 3 ∧
  decode 0b0010_00010010#12 = .frql 0x12 ∧ decode 0b0011_10100111#12 = .frqh 7 ∧
  decode 0b0100_01000000#12 = .ctrl false true 0 ∧ decode 0b0100_10111110#12 = .ctrl true false 30 ∧
  decode 0b0101_11110000#12 = .pan 15 0 ∧ decode 0b0110_00011111#12 = .wave 0x1F ∧
  decode 0b0111_10011111#12 = .noise true 31 ∧ decode 0b1000_01010101#12 = .lfod ∧
  decode 0b1001_00000010#12 = .lfoc false 2 ∧ decode 0b1011_00110011#12 = .rsvd10 11 ∧
  decode 0b1100_11111111#12 = .rsvd12 12 ∧ registerIndex 0x24 = 4

/-! ### Register writes: results, frames and completion -/

/-- R131: `SEL` sets the voice latch to `v[2:0]` and resets no voice state: nothing else changes. -/
def Obligations.SelSetsTheVoiceLatch : Prop :=
  (∀ v : BitVec 8, ∃ latch : BitVec 3, decodeCommand 0 v = .sel latch ∧ latch.toNat = v.toNat % 8) ∧
  ∀ (latch : BitVec 3) (s : State), ∃ t, exec (.sel latch) s = .next t ∧ t.g.voiceLatch = latch ∧
    t = { s with g := { s.g with voiceLatch := t.g.voiceLatch } }

/-- R132: `MVOL` splits one byte into the two master selectors; nothing else changes. -/
def Obligations.MvolSetsBothMasterSelectors : Prop :=
  (∀ v : BitVec 8, ∃ left right : BitVec 4, decodeCommand 1 v = .mvol left right ∧
    left.toNat = v.toNat / 16 ∧ right.toNat = v.toNat % 16) ∧
  ∀ (left right : BitVec 4) (s : State), ∃ t, exec (.mvol left right) s = .next t ∧
    t.g.mainVolumeLeft = left ∧ t.g.mainVolumeRight = right ∧
    t = { s with g := { s.g with mainVolumeLeft := t.g.mainVolumeLeft, mainVolumeRight := t.g.mainVolumeRight } }

/-- R133: `FRQL` writes bits [7:0] of the latched voice's frequency; bits [11:8], every other field and every other voice keep
their values. -/
def Obligations.FrqlWritesTheLowFrequencyByte : Prop :=
  (∀ v : BitVec 8, decodeCommand 2 v = .frql v) ∧
  ∀ (flo : BitVec 8) (s : State), ∃ t, exec (.frql flo) s = .next t ∧
    (t.voice s.latched).frequency.toNat = (s.voice s.latched).frequency.toNat / 256 * 256 + flo.toNat ∧
    t.voice s.latched = { s.voice s.latched with frequency := (t.voice s.latched).frequency } ∧
    SameButVoice s.latched s t

/-- R134: `FRQH` writes bits [11:8] of the latched voice's frequency from `v[3:0]`; bits [7:0] and everything else keep their values; low
byte 0xFF and then high byte 0xFF gives 0x0FFF. -/
def Obligations.FrqhWritesTheHighFrequencyBits : Prop :=
  (∀ v : BitVec 8, ∃ fhi : BitVec 4, decodeCommand 3 v = .frqh fhi ∧ fhi.toNat = v.toNat % 16) ∧
  (∀ (fhi : BitVec 4) (s : State), ∃ t, exec (.frqh fhi) s = .next t ∧
    (t.voice s.latched).frequency.toNat = fhi.toNat * 256 + (s.voice s.latched).frequency.toNat % 256 ∧
    t.voice s.latched = { s.voice s.latched with frequency := (t.voice s.latched).frequency } ∧
    SameButVoice s.latched s t) ∧
  ∀ s : State, ∃ t, applyAll [decodeCommand 2 0xFF, decodeCommand 3 0xFF] s = .next t ∧
    (t.voice s.latched).frequency = 0x0FFF

/-- `CTRL` (R135) sets volume, enable and DDA of the latched voice from one byte; it resets the shared write cursor exactly when the byte
written is disabled and DDA (decision D19, conflict C3, log entry 4), and changes nothing else. -/
def Obligations.CtrlWritesThreeFieldsAndMayResetTheCursor : Prop :=
  (∀ v : BitVec 8, ∃ vol : BitVec 5, decodeCommand 4 v = .ctrl (v.getLsbD 7) (v.getLsbD 6) vol ∧ vol.toNat = v.toNat % 32) ∧
  ∀ (en dda : Bool) (vol : BitVec 5) (s : State), ∃ t, exec (.ctrl en dda vol) s = .next t ∧
    t.voice s.latched = { s.voice s.latched with volume := vol, enabled := en, dda := dda } ∧
    (t.g.waveWriteCursor = if en = false ∧ dda = true then 0 else s.g.waveWriteCursor) ∧
    SameButVoiceAndCursor s.latched s t

/-- R136: `PAN` writes the value byte to the latched voice's panning; nothing else changes. -/
def Obligations.PanWritesThePanningByte : Prop :=
  (∀ (v : BitVec 8) (s : State), ∃ t, exec (decodeCommand 5 v) s = .next t ∧ (t.voice s.latched).panning = v) ∧
  ∀ (panL panR : BitVec 4) (s : State), ∃ t, exec (.pan panL panR) s = .next t ∧
    (t.voice s.latched).panning.toNat = panL.toNat * 16 + panR.toNat ∧
    t.voice s.latched = { s.voice s.latched with panning := (t.voice s.latched).panning } ∧
    SameButVoice s.latched s t

/-- `WAVE` (R137). Outside direct-audio mode the scaled code goes to the wavetable entry at the shared cursor, which advances modulo 32;
in direct-audio mode it goes to `ddaValue` and the cursor stays. Every other entry, field and voice is unchanged. The 16-bit wrap of
the scaled code is decision D8 (log entry 4). -/
def Obligations.WaveFillsTheTableOrTheDirectSample : Prop :=
  (∀ v : BitVec 8, decodeCommand 6 v = .wave v) ∧
  (∀ u : BitVec 8, (sampleOfCode u).toInt = Int.bmod ((u.toNat : Int) * 2047 - 32767) 65536) ∧
  ∀ (u : BitVec 8) (s : State), ∃ t, exec (.wave u) s = .next t ∧ SameButVoiceAndCursor s.latched s t ∧
    ((s.voice s.latched).dda = false →
      t.voice s.latched = { s.voice s.latched with wave := (t.voice s.latched).wave } ∧
      t.g.waveWriteCursor.toNat = (s.g.waveWriteCursor.toNat + 1) % 32 ∧
      (t.voice s.latched).waveRead s.g.waveWriteCursor.toNat = sampleOfCode u ∧
      ∀ k, k ≠ s.g.waveWriteCursor.toNat → (t.voice s.latched).waveRead k = (s.voice s.latched).waveRead k) ∧
    ((s.voice s.latched).dda = true →
      t.voice s.latched = { s.voice s.latched with ddaValue := sampleOfCode u } ∧
      t.g.waveWriteCursor = s.g.waveWriteCursor)

/-- `NOISE` (R138) sets the noise flag only for a latched voice of index 4 or more (decision D28), and stores the noise frequency for any
latched voice (D37): the master clock divided by 64 * (31 - sel), truncated (D9), with sel 31 taken as 30. Log entry 4. -/
def Obligations.NoiseGatesTheFlagAndStoresTheFrequency : Prop :=
  (∀ v : BitVec 8, ∃ selector : BitVec 5, decodeCommand 7 v = .noise (v.getLsbD 7) selector ∧ selector.toNat = v.toNat % 32) ∧
  ∀ (ne : Bool) (selector : BitVec 5) (s : State), ∃ t, exec (.noise ne selector) s = .next t ∧
    ((t.voice s.latched).noiseChannel = true ↔ ne = true ∧ 4 ≤ s.latched.val) ∧
    (t.voice s.latched).noiseFrequency = s.cfg.mclk / (64 * (31 - min selector.toNat 30)) ∧
    t.voice s.latched = { s.voice s.latched with
      noiseChannel := (t.voice s.latched).noiseChannel, noiseFrequency := (t.voice s.latched).noiseFrequency } ∧
    SameButVoice s.latched s t

/-- `LFOC` (R140) writes `V[1].enabled` only, whatever voice is latched: false when bit 7 is clear and bits [1:0] are not zero, true
otherwise. The condition is decision D18 (log entry 4). -/
def Obligations.LfocForcesVoiceOne : Prop :=
  (∀ v : BitVec 8, ∃ ctl : BitVec 2, decodeCommand 9 v = .lfoc (v.getLsbD 7) ctl ∧ ctl.toNat = v.toNat % 4) ∧
  ∀ (halt : Bool) (ctl : BitVec 2) (s : State), ∃ t, exec (.lfoc halt ctl) s = .next t ∧
    ((t.voice 1).enabled = false ↔ halt = false ∧ ctl.toNat ≠ 0) ∧
    t.voice 1 = { s.voice 1 with enabled := (t.voice 1).enabled } ∧ SameButVoice 1 s t

/-- R139, R141: a write to register 8, or to a reserved index 10 to 15, changes nothing. -/
def Obligations.LfodAndReservedChangeNothing : Prop :=
  (∀ (v : BitVec 8), decodeCommand 8 v = .lfod) ∧
  (∀ (r : BitVec 4) (v : BitVec 8), 10 ≤ r.toNat → decodeCommand r v = .rsvd10 r ∨ decodeCommand r v = .rsvd12 r) ∧
  ∀ (r : BitVec 4) (s : State), exec .lfod s = .next s ∧ exec (.rsvd10 r) s = .next s ∧ exec (.rsvd12 r) s = .next s

/-- Every register write is applied (R220: "Every register write has a defined effect"), and none touches a phase accumulator, the queue,
the frame times, the host settings, the violation flag or the configuration (introduction of 41_register_decoder.md, R30). -/
def Obligations.RegisterWritesNeverTouchPhasesOrTiming : Prop :=
  ∀ (i : Instr) (s : State), ∃ t, exec i s = .next t ∧
    (∀ n, (t.voice n).phase = (s.voice n).phase) ∧
    t.queue = s.queue ∧ t.time = s.time ∧ t.host = s.host ∧ t.g.contractViolation = s.g.contractViolation ∧
    t.cfg = s.cfg ∧ t.activity = s.activity ∧ t.calls = s.calls ∧ t.outbox = s.outbox

/-- A register write leaves every voice but the latched one unchanged; only `LFOC` reaches another voice, and that is voice 1
(R131 to R141). -/
def Obligations.OnlyTheLatchedVoiceIsWritten : Prop :=
  ∀ (i : Instr) (s : State), ∃ t, exec i s = .next t ∧
    ∀ n, n ≠ s.latched → (n = 1 → i.index ≠ 9) → t.voice n = s.voice n

/-- R57: every register write but `WAVE` leaves the same state written twice as written once. -/
def Obligations.RegisterWritesButWaveAreIdempotent : Prop :=
  ∀ (i : Instr) (s : State), i.index ≠ 6 ∨ (s.voice s.latched).dda = true →
    ∃ t, exec i s = .next t ∧ exec i t = .next t

/-- A run of `WAVE` writes outside direct-audio mode fills the latched voice's table from the shared cursor, modulo 32, the last write
to an entry standing (R137, R246): with 33 writes from cursor 0 the 33rd overwrites entry 0. The wrap of the scaled code is decision D8
(log entry 4). -/
def Obligations.WaveWritesFillTheTableFromTheCursor : Prop :=
  ∀ (codes : List (BitVec 8)) (s : State), (s.voice s.latched).dda = false →
    ∃ t, applyAll (codes.map Instr.wave) s = .next t ∧ SameButVoiceAndCursor s.latched s t ∧
      t.voice s.latched = { s.voice s.latched with wave := (t.voice s.latched).wave } ∧
      t.g.waveWriteCursor.toNat = (s.g.waveWriteCursor.toNat + codes.length) % 32 ∧
      (∀ (k : Nat) (h : k < codes.length), codes.length ≤ k + 32 →
        (t.voice s.latched).waveRead ((s.g.waveWriteCursor.toNat + k) % 32) = sampleOfCode codes[k]) ∧
      ∀ j < 32, (∀ k < codes.length, (s.g.waveWriteCursor.toNat + k) % 32 ≠ j) →
        (t.voice s.latched).waveRead j = (s.voice s.latched).waveRead j

/-- The mode table of R142 (derived there from R135, R138, R140 and R38): what `CTRL`, `NOISE` and `LFOC` make of the mode, and that no
other write and no other voice's mode changes. The condition of `LFOC` (R140) is decision D18 and the gate of `NOISE` (R138) decision D28
(log entry 4). -/
def Obligations.ModesChangeOnlyByTheTable : Prop :=
  (∀ (en dda : Bool) (vol : BitVec 5) (s : State), ∃ t, exec (.ctrl en dda vol) s = .next t ∧
    ((t.voice s.latched).mode = if en = false then .disabled
      else if (s.voice s.latched).noiseChannel then .noiseActive else if dda then .directAudioActive else .toneActive) ∧
    ∀ n, n ≠ s.latched → (t.voice n).mode = (s.voice n).mode) ∧
  (∀ (ne : Bool) (selector : BitVec 5) (s : State), ∃ t, exec (.noise ne selector) s = .next t ∧
    ((t.voice s.latched).mode = if (s.voice s.latched).enabled = false then .disabled
      else if ne = true ∧ 4 ≤ s.latched.val then .noiseActive
      else if (s.voice s.latched).dda then .directAudioActive else .toneActive) ∧
    ∀ n, n ≠ s.latched → (t.voice n).mode = (s.voice n).mode) ∧
  (∀ (halt : Bool) (ctl : BitVec 2) (s : State), ∃ t, exec (.lfoc halt ctl) s = .next t ∧
    ((t.voice 1).mode = if halt = false ∧ ctl.toNat ≠ 0 then .disabled
      else if (s.voice 1).noiseChannel then .noiseActive else if (s.voice 1).dda then .directAudioActive else .toneActive) ∧
    ∀ n, n ≠ 1 → (t.voice n).mode = (s.voice n).mode) ∧
  ∀ (i : Instr) (s : State), i.index ≠ 4 → i.index ≠ 7 → i.index ≠ 9 → ∃ t, exec i s = .next t ∧
    ∀ n, (t.voice n).mode = (s.voice n).mode

/-- The pseudo-instructions of 30_encoding.md section 6 do what they are named for when their commands are applied back to back (decision
D24, log entry 4): `FREQ` sets the whole frequency, `NOTEON`, `NOTEOFF` and `DDAON` the flags and the volume, `WAVERESET` the cursor (D19),
`NOISEON` the noise flag of a voice of index 4 or more and the noise frequency of the selector (decisions D9, D28, D37); every other field
and voice is unchanged. -/
def Obligations.PseudoInstructionsSetTheirRegisters : Prop :=
  (∀ (f : BitVec 12) (s : State), ∃ t, applyAll (expand (.freq f)) s = .next t ∧
    t.voice s.latched = { s.voice s.latched with frequency := f } ∧ SameButVoice s.latched s t) ∧
  (∀ (vol : BitVec 5) (s : State), ∃ t, applyAll (expand (.noteOn vol)) s = .next t ∧
    t.voice s.latched = { s.voice s.latched with volume := vol, enabled := true, dda := false } ∧ SameButVoice s.latched s t) ∧
  (∀ (vol : BitVec 5) (s : State), ∃ t, applyAll (expand (.ddaOn vol)) s = .next t ∧
    t.voice s.latched = { s.voice s.latched with volume := vol, enabled := true, dda := true } ∧ SameButVoice s.latched s t) ∧
  (∀ s : State, ∃ t, applyAll (expand .noteOff) s = .next t ∧
    t.voice s.latched = { s.voice s.latched with volume := 0, enabled := false, dda := false } ∧ SameButVoice s.latched s t) ∧
  (∀ s : State, ∃ t, applyAll (expand .waveReset) s = .next t ∧ t.g.waveWriteCursor = 0 ∧
    t.voice s.latched = { s.voice s.latched with volume := 0, enabled := false, dda := true } ∧
    SameButVoiceAndCursor s.latched s t) ∧
  ∀ (selector : BitVec 5) (s : State), ∃ t, applyAll (expand (.noiseOn selector)) s = .next t ∧
    t.voice s.latched = { s.voice s.latched with
      noiseChannel := decide (4 ≤ s.latched.val)
      noiseFrequency := s.cfg.mclk / (64 * (31 - min selector.toNat 30)) } ∧
    SameButVoice s.latched s t

/-- `WAVELOAD` (30_encoding.md section 6; decisions D24, D8, D19, log entry 4) loads the latched voice's whole table from entry 0 whatever the cursor
and the voice held, leaves the voice disabled and the cursor at 0, and changes nothing else. -/
def Obligations.WaveLoadFillsTheWholeTable : Prop :=
  ∀ (codes : Vector (BitVec 8) 32) (s : State), ∃ t, applyAll (expand (.waveLoad codes)) s = .next t ∧
    t.g.waveWriteCursor = 0 ∧ SameButVoiceAndCursor s.latched s t ∧
    (∀ (k : Nat) (h : k < 32), (t.voice s.latched).waveRead k = sampleOfCode codes[k]) ∧
    t.voice s.latched = { s.voice s.latched with
      volume := 0, enabled := false, dda := false, wave := (t.voice s.latched).wave }

/-- R52: `WaveWrite(n, i, v)` sets `V[n].wave[i]` to v and changes nothing else; of the register writes only register 6 issues it, and
advances the cursor with it. -/
def Obligations.WaveWriteChangesOneEntry : Prop :=
  (∀ (s : State) (n : VoiceIndex) (i : BitVec 5) (x : Sample),
    ((s.waveWrite n i x).voice n).waveRead i.toNat = x ∧
    (∀ k, k ≠ i.toNat → ((s.waveWrite n i x).voice n).waveRead k = (s.voice n).waveRead k) ∧
    (s.waveWrite n i x).voice n = { s.voice n with wave := ((s.waveWrite n i x).voice n).wave } ∧
    SameButVoice n s (s.waveWrite n i x)) ∧
  (∀ (i : Instr) (s : State), i.index ≠ 6 → ∃ t, exec i s = .next t ∧ ∀ n, (t.voice n).wave = (s.voice n).wave) ∧
  ∀ (u : BitVec 8) (s : State), (s.voice s.latched).dda = false → ∃ t, exec (.wave u) s = .next t ∧
    t.voices = (s.waveWrite s.latched s.g.waveWriteCursor (sampleOfCode u)).voices ∧
    t.g.waveWriteCursor.toNat = (s.g.waveWriteCursor.toNat + 1) % 32

/-! ### Steps and host operations -/

/-- A step runs the decoded command: during `beginFrame` the oldest command, applied without mixing (R101); during `getSamples` the same,
after the segment before the command's position has been mixed under the state before the command (R105; its clamp is decision D16,
log entry 4). -/
def Obligations.StepAppliesTheOldestCommand : Prop :=
  (∀ (s : State) (c : Int) (cmd : Command) (rest : List Command) (i : Instr), s.cfg.wf = true → s.activity = .draining c →
    s.queue = cmd :: rest → decodeCommand cmd.r cmd.v = i → step s = exec i { s with queue := rest }) ∧
  ∀ (s : State) (elapsed : Int) (start : Nat) (out : List Sample) (cmd : Command) (rest : List Command) (i : Instr)
    (p : Int) (position : Nat) (before mixed : State) (out' : List Sample),
    s.cfg.wf = true → s.activity = .mixing elapsed start out → s.queue = cmd :: rest → decodeCommand cmd.r cmd.v = i →
    p = Int.fdiv (cmd.timeOffset * out.length) elapsed - Int.fdiv (cmd.timeOffset * out.length) elapsed % 2 →
    position = (min (max p start) out.length).toNat →
    before = (if p < start ∨ (out.length : Int) < p then
      { s with queue := rest, g := { s.g with contractViolation := true } } else { s with queue := rest }) →
    mixSegment start position before out = (mixed, out') →
    step s = exec i { mixed with activity := .mixing elapsed position out' }

/-- From an idle core whose oldest call is `beginFrame(c)`, the steps of the drain apply every queued command in FIFO order, empty `Q`, set
`T.origin` to c and change nothing else (R101). That `T.end` is unchanged is decision D34 (log entry 4). -/
def Obligations.BeginFrameRunIsTheWholeDrain : Prop :=
  ∀ (s : State) (c : Int) (rest : List HostCall), s.cfg.wf = true → s.activity = .idle →
    s.calls = ⟨.beginFrame c, none⟩ :: rest →
    ∃ t, applyAll (s.queue.map fun cmd => decodeCommand cmd.r cmd.v) { s with queue := [], calls := rest } = .next t ∧
      wholeBeginFrame c { s with calls := rest } = .next { t with time := { s.time with origin := c } } ∧
      Host.Core.run Sys2Proof.core (s.queue.length + 2) s = .next { t with time := { s.time with origin := c } }

/-- From an idle core whose oldest call is `getSamples` of an even buffer, the steps of the call are the whole splice of R105, and leave
the queue empty (R62). R105 rests on decisions D15 and D16 (log entry 4). -/
def Obligations.GetSamplesRunIsTheWholeSplice : Prop :=
  ∀ (s : State) (out : List Sample) (rest : List HostCall), s.cfg.wf = true → s.activity = .idle →
    s.calls = ⟨.getSamples out, none⟩ :: rest → out.length % 2 = 0 →
    ∃ t, wholeGetSamples out { s with calls := rest } = .next t ∧
      Host.Core.run Sys2Proof.core (s.queue.length + 2) s = .next t ∧
      t.queue = [] ∧ t.activity = .idle ∧ t.time = s.time ∧ t.host = s.host ∧
      ∃ out', out'.length = out.length ∧ t.outbox = s.outbox ++ [.samples out']

/-- R102: `endFrame(c)` writes `T.end` only. -/
def Obligations.EndFrameWritesOnlyTheEnd : Prop :=
  ∀ (s : State) (c : Int) (rest : List HostCall), s.cfg.wf = true → s.activity = .idle →
    s.calls = ⟨.endFrame c, none⟩ :: rest →
    ∃ t, step s = .next t ∧ t.time.last = c ∧
      t = { s with calls := rest, time := { origin := s.time.origin, last := t.time.last } }

/-- `writeRegister` only appends `(register[3:0], value, c - T.origin)` to the queue (R103, R71); a value outside 0..255 is refused, which is
decision D35 (log entry 4), and so is a call made from inside `getSamples` (R227). -/
def Obligations.WriteRegisterOnlyQueues : Prop :=
  (∀ (s : State) (register : Nat) (value c : Int) (rest : List HostCall), s.cfg.wf = true → s.activity = .idle →
    s.calls = ⟨.writeRegister register value c, none⟩ :: rest → 0 ≤ value → value ≤ 255 →
    ∃ t cmd, step s = .next t ∧ t = { s with calls := rest, queue := s.queue ++ [cmd] } ∧
      cmd.r.toNat = register % 16 ∧ (cmd.v.toNat : Int) = value ∧ cmd.timeOffset = c - s.time.origin) ∧
  (∀ (s : State) (register : Nat) (value c : Int) (rest : List HostCall), s.cfg.wf = true → s.activity = .idle →
    s.calls = ⟨.writeRegister register value c, none⟩ :: rest → value < 0 ∨ 255 < value →
    step s = .refused (.valueOutOfRange value)) ∧
  ∀ (s : State) (out : List Sample) (register : Nat) (value c : Int) (rest : List HostCall), s.cfg.wf = true →
    s.activity = .idle → s.calls = ⟨.getSamples out, some (.writeRegister register value c)⟩ :: rest →
    step s = .refused .reentrantCall

/-- A call issued while `getSamples` is in progress is refused, whatever it is. R227 lists `writeRegister`, `beginFrame`, `endFrame`,
`discardSamples`, `restore` and the host settings; that `snapshot`, `getSamples` and `reset` are refused too is the model's (log
entry 9, DEDUCED from R60 and R100). -/
def Obligations.CallInsideGetSamplesIsRefused : Prop :=
  ∀ (s : State) (out : List Sample) (inner : HostOp) (rest : List HostCall), s.cfg.wf = true → s.activity = .idle →
    s.calls = ⟨.getSamples out, some inner⟩ :: rest → step s = .refused .reentrantCall

/-- `discardSamples` has no effect: the queue keeps its commands and no phase advances (R104; decision D25, log entry 4). -/
def Obligations.DiscardSamplesKeepsTheQueue : Prop :=
  ∀ (s : State) (rest : List HostCall), s.cfg.wf = true → s.activity = .idle →
    s.calls = ⟨.discardSamples, none⟩ :: rest → step s = .next { s with calls := rest }

/-- `getSamples` of an odd buffer is refused (R225, decision D4); of an even one it begins with the cursor at 0 and an elapsed length of at
least 1, and a frame length that is not positive is flagged (R105, R223; decision D15, log entry 4). -/
def Obligations.GetSamplesBeginsWithThePositiveElapsed : Prop :=
  ∀ (s : State) (out : List Sample) (rest : List HostCall), s.cfg.wf = true → s.activity = .idle →
    s.calls = ⟨.getSamples out, none⟩ :: rest →
    (out.length % 2 = 1 → step s = .refused (.oddBufferLength out.length)) ∧
    (out.length % 2 = 0 → step s = .next { s with
      calls := rest
      activity := .mixing (max 1 (s.time.last - s.time.origin)) 0 out
      g := { s.g with contractViolation := s.g.contractViolation || decide (s.time.last ≤ s.time.origin) } })

/-- The host settings (R35, R36, R100): `H.mute[n]` and `H.amp` are set and nothing else changes; an amplitude outside 0..32767 is refused
(R228, decision D14, log entry 4). -/
def Obligations.HostSettingsAreSetOrRefused : Prop :=
  (∀ (s : State) (n : VoiceIndex) (b : Bool) (rest : List HostCall), s.cfg.wf = true → s.activity = .idle →
    s.calls = ⟨.setMute n b, none⟩ :: rest →
    ∃ t, step s = .next t ∧ t = { s with calls := rest, host := { s.host with mute := t.host.mute } } ∧
      ∀ m : VoiceIndex, t.host.mute[m.val] = if m = n then b else s.host.mute[m.val]) ∧
  ∀ (s : State) (a : Int) (rest : List HostCall), s.cfg.wf = true → s.activity = .idle →
    s.calls = ⟨.setAmp a, none⟩ :: rest →
    (0 ≤ a → a ≤ 32767 → ∃ t, step s = .next t ∧ (t.host.amp.toNat : Int) = a ∧
      t = { s with calls := rest, host := { s.host with amp := t.host.amp } }) ∧
    (a < 0 ∨ 32767 < a → step s = .refused (.ampOutOfRange a))

/-- An idle core that the host has not called waits (R241), and a configuration that breaks a constraint of R9 is refused by every step
(R228, log entries 1 and 2). -/
def Obligations.IdleCoreWaitsAndBadConfigurationIsRefused : Prop :=
  (∀ s : State, s.cfg.wf = true → s.activity = .idle → s.calls = [] → step s = .next s) ∧
  ∀ s : State, (s.cfg.mclk = 0 ∨ s.cfg.outputRate = 0 ∨ s.cfg.noise = []) → step s = .refused .badConfiguration

/-! ### Snapshot and restore -/

/-- R200: `snapshot` reads and writes no other state, and the record's content is the rule's list. -/
def Obligations.SnapshotReadsTheListedFields : Prop :=
  (∀ (s : State) (rest : List HostCall), s.cfg.wf = true → s.activity = .idle → s.calls = ⟨.snapshot, none⟩ :: rest →
    step s = .next { s with calls := rest, outbox := s.outbox ++ [.snapshot (takeSnapshot s)] }) ∧
  (∀ (s : State) (n : Fin 6) (v : Voice), v = s.voice (n.castLE (by decide)) →
    (takeSnapshot s).voice[n.val] = ⟨some (.int v.frequency.toNat), some (.int v.panning.toNat), some (.int v.volume.toNat),
      some (.bool v.enabled), some (.bool v.dda), some (.int v.ddaValue.toInt), some (.f32 v.phase),
      some (.samples (v.wave.toList.map BitVec.toInt))⟩) ∧
  ∀ s : State,
    (takeSnapshot s).noise.toList =
      [⟨some (.bool (s.voice 4).noiseChannel), some (.int (s.voice 4).noiseFrequency)⟩,
       ⟨some (.bool (s.voice 5).noiseChannel), some (.int (s.voice 5).noiseFrequency)⟩] ∧
    (takeSnapshot s).mainVolumeLeft = some (.int s.g.mainVolumeLeft.toNat) ∧
    (takeSnapshot s).mainVolumeRight = some (.int s.g.mainVolumeRight.toNat) ∧
    (takeSnapshot s).voiceLatch = some (.int s.g.voiceLatch.toNat) ∧
    (takeSnapshot s).waveWriteCursor = some (.int s.g.waveWriteCursor.toNat)

/-- `restore` answers a next state for exactly the snapshots that 43_serialization.md rule R204 does not refuse, as an operation and as the
step of an idle core whose oldest call it is (R100; decisions D21, D40, log entries 4 and 5). -/
def Obligations.RestoreAcceptsExactlyTheWellTypedSnapshots : Prop :=
  ∀ (record : Snapshot) (s : State),
    (AcceptedSnapshot record → ∃ t, restoreSnapshot record s = .next t) ∧
    (¬ AcceptedSnapshot record → restoreSnapshot record s = .refused .badSnapshot) ∧
    ∀ rest, s.cfg.wf = true → s.activity = .idle → s.calls = ⟨.restore record, none⟩ :: rest →
      (AcceptedSnapshot record → ∃ t, restoreSnapshot record { s with calls := rest } = .next t ∧ step s = .next t) ∧
      (¬ AcceptedSnapshot record → step s = .refused .badSnapshot)

/-- Restoring a snapshot of `s` into `t` (R203; decision D21, log entry 4): the six mixed voices, the noise fields of voices 4 and 5 and
the global registers are those of `s`; the queue is emptied, and flagged if it was not empty; everything else is as in `t`. The step of
an idle core whose oldest call is that `restore` (R100) does the same. -/
def Obligations.SnapshotRestoresTheMixedVoices : Prop :=
  ∀ s t : State, (∀ n : VoiceIndex, n.val < 6 → AcceptedPhase (s.voice n).phase) →
    ∃ u, restoreSnapshot (takeSnapshot s) t = .next u ∧
      (∀ n : VoiceIndex, n.val < 4 → u.voice n = { s.voice n with
        noiseChannel := (t.voice n).noiseChannel, noiseFrequency := (t.voice n).noiseFrequency }) ∧
      u.voice 4 = s.voice 4 ∧ u.voice 5 = s.voice 5 ∧ u.voice 6 = t.voice 6 ∧ u.voice 7 = t.voice 7 ∧
      u = { t with
        voices := u.voices
        queue := []
        g := { s.g with contractViolation := t.g.contractViolation || !t.queue.isEmpty } } ∧
      ∀ rest, t.cfg.wf = true → t.activity = .idle → t.calls = ⟨.restore (takeSnapshot s), none⟩ :: rest →
        step t = .next { u with calls := rest }

/-- The round trip of R205 (derived there): a core restored from a snapshot of `s` differs from `s` only in what the output cannot depend
on. Premises of the rule: the queue is empty, the configuration and the host settings are equal; and the noise flags of voices 0 to 3 are
false in both (R26). One more premise, which R205 does not name, is the model's choice: the `dda` flags of `V[6]` and `V[7]` agree (log entry 8). -/
def Obligations.RestoredCoreSoundsTheSame : Prop :=
  ∀ s t : State, (∀ n : VoiceIndex, n.val < 6 → AcceptedPhase (s.voice n).phase) → s.queue = [] →
    t.cfg = s.cfg → t.host = s.host →
    (∀ n : VoiceIndex, n.val < 4 → (s.voice n).noiseChannel = false ∧ (t.voice n).noiseChannel = false) →
    (s.voice 6).dda = (t.voice 6).dda → (s.voice 7).dda = (t.voice 7).dda →
    ∃ u, restoreSnapshot (takeSnapshot s) t = .next u ∧
      SameAudible s { u with time := s.time, activity := s.activity, calls := s.calls, outbox := s.outbox }

/-- The round trip of R205 (derived there) as a run. Core `s` with an empty queue is snapshotted and the snapshot restored into core `t` of
the same configuration and host settings; both then receive the same calls in the host's order (R60: a `beginFrame`, writes, an
`endFrame`, then any calls). After k steps of the one and k + 1 of the other (the one more is the `restore`) both have handed over the same
results, or both have refused alike. R205 says so without the last premise; R137 and R203 leave it no weaker one than that the `dda` flags
of `V[6]` and `V[7]` agree at the snapshot, or that the latched voice's flags agree wherever the run applies a `WAVE` to voice 6 or 7 (so
any run that applies none there). That premise is the model's choice between R205 and R137 with R203 (log entry 8). -/
def Obligations.RestoredCorePlaysTheSameOutput : Prop :=
  ∀ (s t A B : State) (c d : Int) (writes later rest : List HostCall) (k : Nat),
    s.cfg.wf = true → s.activity = .idle → t.activity = .idle → s.queue = [] → t.cfg = s.cfg → t.host = s.host →
    (∀ n : VoiceIndex, n.val < 6 → AcceptedPhase (s.voice n).phase) →
    (∀ n : VoiceIndex, n.val < 4 → (s.voice n).noiseChannel = false ∧ (t.voice n).noiseChannel = false) →
    (∀ call ∈ writes, ∃ register value cycle, call = ⟨.writeRegister register value cycle, none⟩) →
    rest = ⟨.beginFrame c, none⟩ :: writes ++ ⟨.endFrame d, none⟩ :: later →
    A = { s with calls := rest } →
    B = { t with calls := ⟨.restore (takeSnapshot s), none⟩ :: rest, outbox := s.outbox } →
    ((s.voice 6).dda = (t.voice 6).dda ∧ (s.voice 7).dda = (t.voice 7).dda) ∨
      (∀ j < k, ∀ a b, Host.Core.run Sys2Proof.core j A = .next a → Host.Core.run Sys2Proof.core (j + 1) B = .next b →
        UnmixedWaveAgrees a b) →
    (∀ a, Host.Core.run Sys2Proof.core k A = .next a →
      ∃ b, Host.Core.run Sys2Proof.core (k + 1) B = .next b ∧ a.outbox = b.outbox) ∧
    ∀ r, Host.Core.run Sys2Proof.core k A = .refused r → Host.Core.run Sys2Proof.core (k + 1) B = .refused r

/-! ### Positions -/

/-- The clamp of R105 and R224 (decision D16, log entry 4): a position stays inside `[start, BUF_LEN]`, so the segment cursor never
moves back, stays even (R55), and is the proportional position itself where no violation is raised. -/
def Obligations.PositionsStayInTheSegment : Prop :=
  ∀ (offset elapsed : Int) (start bufLen : Nat), start ≤ bufLen → start % 2 = 0 → bufLen % 2 = 0 →
    start ≤ clampPosition (rawPosition offset bufLen elapsed) start bufLen ∧
    clampPosition (rawPosition offset bufLen elapsed) start bufLen ≤ bufLen ∧
    clampPosition (rawPosition offset bufLen elapsed) start bufLen % 2 = 0 ∧
    (positionBroken (rawPosition offset bufLen elapsed) start bufLen = false →
      (clampPosition (rawPosition offset bufLen elapsed) start bufLen : Int) = rawPosition offset bufLen elapsed)

/-- The position map under a host that keeps its duties (R106, derived there): the position is the greatest even index at or below the
proportional one, lies in the buffer, grows with the offset, is 0 at offset 0 and `BUF_LEN` at the end, and raises no violation. -/
def Obligations.PositionsOfAnOrderlyHost : Prop :=
  ∀ (offset later elapsed : Int) (bufLen : Nat), 1 ≤ elapsed → 0 ≤ offset → offset ≤ later → later ≤ elapsed →
    bufLen % 2 = 0 →
    0 ≤ rawPosition offset bufLen elapsed ∧ rawPosition offset bufLen elapsed % 2 = 0 ∧
    rawPosition offset bufLen elapsed * elapsed ≤ offset * bufLen ∧
    offset * bufLen < (rawPosition offset bufLen elapsed + 2) * elapsed ∧
    rawPosition offset bufLen elapsed ≤ rawPosition later bufLen elapsed ∧
    rawPosition 0 bufLen elapsed = 0 ∧ rawPosition elapsed bufLen elapsed = bufLen ∧
    positionBroken (rawPosition later bufLen elapsed) (rawPosition offset bufLen elapsed).toNat bufLen = false

/-! ### Oscillator and mixer -/

/-- R160: a segment mixes voices 0 to 5, in any order with the same result; voices 6 and 7 contribute nothing and never change, so the
segment is the same whatever they hold; an empty segment changes nothing. -/
def Obligations.SegmentMixesTheSixVoicesInAnyOrder : Prop :=
  ∀ (a b : Nat) (s : State) (out : List Sample),
    (∀ ns : List VoiceIndex, ns.Perm [0, 1, 2, 3, 4, 5] → mixVoices ns a b s out = mixSegment a b s out) ∧
    (mixSegment a b s out).1.voice 6 = s.voice 6 ∧ (mixSegment a b s out).1.voice 7 = s.voice 7 ∧
    (∀ (n : VoiceIndex) (v : Voice), 6 ≤ n.val →
      mixSegment a b (s.setVoice n v) out = ((mixSegment a b s out).1.setVoice n v, (mixSegment a b s out).2)) ∧
    mixSegment a a s out = (s, out)

/-- A voice that is muted, disabled, or not direct-audio with volume selector 0, and no other, is skipped: no element is written and its
phase is unchanged (R161). That a muted voice's phase does not advance is decision D31 (log entry 4). -/
def Obligations.SkippedVoiceIsFrozen : Prop :=
  ∀ (n : VoiceIndex) (a b : Nat) (s : State) (out : List Sample),
    (voiceSkipped s n = true ↔ s.host.mute[n.val] = true ∨ (s.voice n).enabled = false ∨
      ((s.voice n).dda = false ∧ (s.voice n).volume.toNat = 0)) ∧
    (voiceSkipped s n = true → mixVoice n a b s out = (s, out))

/-- The playback frequency (R164; decisions D9, D27, log entry 4): the noise frequency of a noise voice, 0 of a direct-audio voice, else
the master clock divided by 32 times the frequency register; a tone frequency of 0 or 1 is silent and freezes the phase. -/
def Obligations.PlaybackFrequencyOfEachMode : Prop :=
  (∀ (c : Config) (v : Voice), v.noiseChannel = true → playbackFrequency c v = some v.noiseFrequency) ∧
  (∀ (c : Config) (v : Voice), v.noiseChannel = false → v.dda = true → playbackFrequency c v = some 0) ∧
  (∀ (c : Config) (v : Voice), v.noiseChannel = false → v.dda = false → 2 ≤ v.frequency.toNat →
    playbackFrequency c v = some (c.mclk / (32 * v.frequency.toNat))) ∧
  ∀ (n : VoiceIndex) (a b : Nat) (s : State) (out : List Sample), (s.voice n).noiseChannel = false →
    (s.voice n).dda = false → (s.voice n).frequency.toNat ≤ 1 → mixVoice n a b s out = (s, out)

/-- Mixing a segment changes the phases of voices and the elements of the segment, and nothing else (R160, R166, R172). -/
def Obligations.MixingChangesOnlyPhasesAndTheSegment : Prop :=
  ∀ (a b : Nat) (s : State) (out : List Sample), a ≤ b →
    (mixSegment a b s out).1 = { s with voices := (mixSegment a b s out).1.voices } ∧
    (∀ n, (mixSegment a b s out).1.voice n = { s.voice n with phase := ((mixSegment a b s out).1.voice n).phase }) ∧
    (mixSegment a b s out).2.length = out.length ∧
    ∀ i, i < a ∨ b ≤ i → (mixSegment a b s out).2[i]? = out[i]?

/-- Accumulation is additive modulo 2^16 (R168; the wrap is decision D13, log entry 4): a segment adds to the buffer what it would leave in a
buffer of zeros, whatever the buffer holds; the phases do not depend on the buffer; and two voices together are the element-wise sum of
each alone. -/
def Obligations.MixingIsAdditive : Prop :=
  (∀ (a b : Nat) (s : State) (out : List Sample),
    (mixSegment a b s out).1 = (mixSegment a b s (List.replicate out.length 0)).1 ∧
    (mixSegment a b s out).2 = List.zipWith (· + ·) out (mixSegment a b s (List.replicate out.length 0)).2) ∧
  ∀ (n m : VoiceIndex) (a b len : Nat) (s : State), n ≠ m →
    (mixVoices [n, m] a b s (List.replicate len 0)).2 =
      List.zipWith (· + ·) (mixVoice n a b s (List.replicate len 0)).2 (mixVoice m a b s (List.replicate len 0)).2

/-- The headroom of R167 and R168 (decisions D12, D14, log entry 4): one contribution is at most 5461 in magnitude, and a buffer that is 0
on entry holds at most 6 * 5461 = 32766 in magnitude after a segment. -/
def Obligations.SixVoicesNeverClip : Prop :=
  (∀ (amp : BitVec 15) (x : Sample) (gain : BitVec 8),
    -5461 ≤ scaleSample amp x gain ∧ scaleSample amp x gain ≤ 5461) ∧
  ∀ (a b len i : Nat) (s : State),
    -32766 ≤ ((mixSegment a b s (List.replicate len 0)).2.getD i 0).toInt ∧
    ((mixSegment a b s (List.replicate len 0)).2.getD i 0).toInt ≤ 32766

/-- Each channel's level is `31 - global - pan - (31 - volume)`, clamped to a minimum of 0 and never above 31 (R170); the gain is `LOG` of it
(R171). That the 4-bit selectors index `RED` directly (R169) is decision D5 (log entry 4). -/
def Obligations.ChannelLevelIsClampedAtZero : Prop :=
  ∀ (c : Config) (g : Globals) (v : Voice) (panL panR : BitVec 4), v.panning = panL ++ panR →
    ∃ levelL levelR : Fin 32,
      (levelL.val : Int) = max 0 (31 - (c.red[g.mainVolumeLeft.toNat]'g.mainVolumeLeft.isLt).toNat
        - (c.red[panL.toNat]'panL.isLt).toNat - (31 - (v.volume.toNat : Int))) ∧
      (levelR.val : Int) = max 0 (31 - (c.red[g.mainVolumeRight.toNat]'g.mainVolumeRight.isLt).toNat
        - (c.red[panR.toNat]'panR.isLt).toNat - (31 - (v.volume.toNat : Int))) ∧
      gainLeft c g v = c.log[levelL.val] ∧ gainRight c g v = c.log[levelR.val]

/-- `f32_fmod` is exact (R12, decision D10, log entry 4): on finite operands with a divisor other than zero it is the remainder of the
truncated quotient, computed on the exact values. -/
def Obligations.FmodIsExact : Prop :=
  ∀ a b : F32, f32Finite a = true → f32Finite b = true → f32Magnitude b ≠ 0 →
    f32Finite (f32Fmod a b) = true ∧ f32Units (f32Fmod a b) = Int.tmod (f32Units a) (f32Units b)

/-- Rounding is to nearest, ties to even (R12, decision D10, log entry 4): no finite binary32 magnitude is nearer to `num / den` than the
rounded one, and of two equally near ones the even one is taken. `f32`, `f32_add` and `f32_div` are each the rounding of their exact
result, and on infinities, zero divisors and NaNs answer what IEEE 754 says (the bits of a NaN are free, log entry 6). -/
def Obligations.RoundingIsToNearestTiesToEven : Prop :=
  (∀ num den m : Nat, 0 < den → roundMagnitude num den < 0x7F800000 → m < 0x7F800000 →
    ∃ rounded other : Int,
      rounded = f32Magnitude (BitVec.ofNat 32 (roundMagnitude num den)) * den - num ∧
      other = f32Magnitude (BitVec.ofNat 32 m) * den - num ∧
      rounded.natAbs ≤ other.natAbs ∧
      (rounded.natAbs = other.natAbs → m ≠ roundMagnitude num den → roundMagnitude num den % 2 = 0)) ∧
  (∀ x : Nat, RoundsTo false (x * 2 ^ 149) 1 (f32OfNat x)) ∧
  (∀ a b : F32, f32Finite a = true → f32Finite b = true →
    (f32Units a + f32Units b ≠ 0 →
      RoundsTo (decide (f32Units a + f32Units b < 0)) (f32Units a + f32Units b).natAbs 1 (f32Add a b)) ∧
    (f32Units a + f32Units b = 0 →
      f32Add a b = if f32Sign a = true ∧ f32Sign b = true then 0x80000000#32 else 0#32) ∧
    (f32Magnitude b ≠ 0 →
      RoundsTo (f32Sign a != f32Sign b) (f32Magnitude a * 2 ^ 149) (f32Magnitude b) (f32Div a b)) ∧
    (f32Magnitude b = 0 → f32Magnitude a ≠ 0 →
      f32IsInf (f32Div a b) = true ∧ f32Sign (f32Div a b) = (f32Sign a != f32Sign b)) ∧
    (f32Magnitude b = 0 → f32Magnitude a = 0 → f32IsNaN (f32Div a b) = true)) ∧
  (∀ a b : F32, f32IsInf a = true → f32Finite b = true →
    f32Add a b = a ∧ f32Add b a = a ∧
    (f32IsInf (f32Div a b) = true ∧ f32Sign (f32Div a b) = (f32Sign a != f32Sign b)) ∧
    f32Div b a = if f32Sign b = f32Sign a then 0#32 else 0x80000000#32) ∧
  (∀ a b : F32, f32IsInf a = true → f32IsInf b = true →
    f32IsNaN (f32Div a b) = true ∧ (f32Sign a = f32Sign b → f32Add a b = a) ∧
    (f32Sign a ≠ f32Sign b → f32IsNaN (f32Add a b) = true)) ∧
  ∀ a b : F32, f32IsNaN a = true ∨ f32IsNaN b = true →
    f32IsNaN (f32Add a b) = true ∧ f32IsNaN (f32Div a b) = true

/-- The phase stays inside the waveform (R51 and R166, derived there): for a waveform of at most 2^24 entries and a finite rate that is not
negative, the index read and the phase after the pair lie below the waveform's length. -/
def Obligations.PhaseStaysInsideTheWaveform : Prop :=
  ∀ (phase rate : F32) (length : Nat), AcceptedPhase phase → AcceptedPhase rate → f32Magnitude rate ≤ 2 ^ 220 →
    1 ≤ length → length ≤ 2 ^ 24 →
    f32TruncInt (f32Fmod phase (f32OfNat length)) < length ∧
    AcceptedPhase (advancePhase (f32OfNat length) rate (f32Fmod phase (f32OfNat length))) ∧
    f32TruncInt (advancePhase (f32OfNat length) rate (f32Fmod phase (f32OfNat length))) < length

/-- A direct-audio voice without noise outputs its held sample at every pair of the segment and its phase does not move (R165, R166,
R174; decisions D10, D11, log entry 4). -/
def Obligations.DirectAudioVoiceHoldsItsSample : Prop :=
  ∀ (n : VoiceIndex) (a b : Nat) (s : State) (out : List Sample), s.cfg.wf = true → voiceSkipped s n = false →
    (s.voice n).dda = true → (s.voice n).noiseChannel = false →
    AcceptedPhase (s.voice n).phase → (s.voice n).phase.getLsbD 31 = false → f32Magnitude (s.voice n).phase < 32 * 2 ^ 149 →
    a ≤ b → (b - a) % 2 = 0 → b ≤ out.length →
    ∃ out', mixVoice n a b s out = (s, out') ∧ out'.length = out.length ∧
      ∀ (i : Nat) (_ : i < out.length), out'.getD i 0 =
        if a ≤ i ∧ i < b then
          out.getD i 0 + wrap16 (scaleSample s.host.amp (s.voice n).ddaValue
            (if (i - a) % 2 = 0 then gainLeft s.cfg s.g (s.voice n) else gainRight s.cfg s.g (s.voice n)))
        else out.getD i 0

/-- What a sounding voice adds to the buffer (R163 to R167; decisions D9 to D12 and D30, log entry 4), in every mode: tone, noise,
direct-audio, and direct-audio with noise on. Before each pair the phase is wrapped into the active waveform (the noise table under the
noise flag, else the voice's own 32 entries); the pair takes `ddaValue` of a direct-audio voice, else the waveform's entry at the integer
part of the wrapped phase; the scaled sample is added left and right; then the phase advances by the rate
`WL / (OUTPUT_RATE / f)` and is wrapped again. `phase k` is the phase before pair k. A read outside the table is free (log entry 7). -/
def Obligations.SoundingVoiceReadsItsWaveform : Prop :=
  ∀ (n : VoiceIndex) (a b f length : Nat) (s : State) (out : List Sample) (v : Voice) (wl rate : F32) (phase : Nat → F32),
    v = s.voice n → voiceSkipped s n = false →
    (v.noiseChannel = true → f = v.noiseFrequency ∧ length = s.cfg.noise.length) →
    (v.noiseChannel = false → length = 32) →
    (v.noiseChannel = false → v.dda = true → f = 0) →
    (v.noiseChannel = false → v.dda = false → 2 ≤ v.frequency.toNat ∧ f = s.cfg.mclk / (32 * v.frequency.toNat)) →
    wl = f32OfNat length → rate = f32Div wl (f32Div (f32OfNat s.cfg.outputRate) (f32OfNat f)) →
    phase 0 = v.phase → (∀ k, phase (k + 1) = f32Fmod (f32Add (f32Fmod (phase k) wl) rate) wl) →
    a ≤ b → (b - a) % 2 = 0 → b ≤ out.length →
    ∃ out', mixVoice n a b s out = (s.setVoice n { v with phase := phase ((b - a) / 2) }, out') ∧
      out'.length = out.length ∧
      (∀ i, i < a ∨ b ≤ i → out'[i]? = out[i]?) ∧
      ∀ (k : Nat) (x : Sample), k < (b - a) / 2 →
        (v.dda = true → x = v.ddaValue) →
        (v.dda = false → AcceptedPhase (f32Fmod (phase k) wl) ∧
          (v.noiseChannel = true → s.cfg.noise[f32Magnitude (f32Fmod (phase k) wl) / 2 ^ 149]? = some x) ∧
          (v.noiseChannel = false → v.wave[f32Magnitude (f32Fmod (phase k) wl) / 2 ^ 149]? = some x)) →
        out'.getD (a + 2 * k) 0 = out.getD (a + 2 * k) 0 + BitVec.ofInt 16 (Int.tdiv (Int.tdiv (Int.tdiv
          (x.toInt * ((gainLeft s.cfg s.g v).toNat : Int)) 255) 6 * (s.host.amp.toNat : Int)) 32767) ∧
        out'.getD (a + 2 * k + 1) 0 = out.getD (a + 2 * k + 1) 0 + BitVec.ofInt 16 (Int.tdiv (Int.tdiv (Int.tdiv
          (x.toInt * ((gainRight s.cfg s.g v).toNat : Int)) 255) 6 * (s.host.amp.toNat : Int)) 32767)

/-! ### Reset and whole-machine rules -/

/-- The state after reset is the table of 70_reset_and_hazards.md section 1. The source gives the enable flags, the phases and the
wavetables; the other values are decisions D14 and D20 of the spec (log entry 3). -/
def Obligations.ResetStateIsTheResetTable : Prop :=
  (∀ n : VoiceIndex, (State.reset.voice n).enabled = false ∧ (State.reset.voice n).phase = 0 ∧
    (∀ i < 32, (State.reset.voice n).waveRead i = 0) ∧
    (State.reset.voice n).dda = false ∧ (State.reset.voice n).noiseChannel = false ∧
    (State.reset.voice n).frequency = 0 ∧ (State.reset.voice n).panning = 0 ∧ (State.reset.voice n).volume = 0 ∧
    (State.reset.voice n).noiseFrequency = 0 ∧ (State.reset.voice n).ddaValue = 0 ∧
    State.reset.host.mute[n.val] = false) ∧
  State.reset.g.voiceLatch = 0 ∧ State.reset.g.mainVolumeLeft = 0 ∧ State.reset.g.mainVolumeRight = 0 ∧
  State.reset.g.waveWriteCursor = 0 ∧ State.reset.g.contractViolation = false ∧
  State.reset.queue = [] ∧ State.reset.time.origin = 0 ∧ State.reset.time.last = 0 ∧ State.reset.host.amp.toNat = 32767

/-- `reset()` as a host operation (R241; decision D20, log entry 3) gives the state after reset; the configuration is not changed by it
(R240), and the host's calls and results are no entry of the table. -/
def Obligations.ResetCallGivesTheResetState : Prop :=
  ∀ (s : State) (rest : List HostCall), s.cfg.wf = true → s.activity = .idle → s.calls = ⟨.reset, none⟩ :: rest →
    step s = .next { State.reset with cfg := s.cfg, calls := rest, outbox := s.outbox }

/-- After reset the mix is silent (R242, derived there): a segment adds nothing and advances no phase. -/
def Obligations.ResetMixIsSilent : Prop :=
  ∀ (a b : Nat) (out : List Sample), mixSegment a b State.reset out = (State.reset, out)

/-- The state after reset is safe: the noise flags of voices 0 to 3 are false in it, which is decision D20 of the reset table (R240; log
entry 3), and no operation is in progress. -/
def Obligations.ResetStateIsSafe : Prop := SafeState State.reset

/-- Every step keeps the safe state: voices 0 to 3 never become noise channels (R26), and during `getSamples` the segment cursor is even
and inside an even buffer and the elapsed length is at least 1 (R55, R105). -/
def Obligations.EveryStepKeepsTheSafeState : Prop :=
  ∀ s t : State, SafeState s → step s = .next t → SafeState t

/-- The violation flag is sticky (R221, decision D32, log entry 4): no step but the one of a `reset` call clears it. -/
def Obligations.ViolationFlagIsSticky : Prop :=
  ∀ s t : State, step s = .next t → s.g.contractViolation = true →
    t.g.contractViolation = true ∨ (s.activity = .idle ∧ ∃ rest, s.calls = ⟨.reset, none⟩ :: rest)

/-- No step writes the configuration (R37, R240), and none takes back a result handed to the host. -/
def Obligations.ConfigurationIsNeverWritten : Prop :=
  ∀ s t : State, step s = .next t → t.cfg = s.cfg ∧ s.outbox <+: t.outbox

/-- What the output can depend on: two states that agree on it (SameAudible) take the same outcome, hand the host the same results, and
agree on it after the step. So no output depends on the rest of `V[6]` and `V[7]` (R20), on a noise frequency without its flag (R26), or
on the violation flag (R221). The `dda` flags of `V[6]` and `V[7]` are no part of the rest, by the model's choice (log entry 8), and one step alone reads them:
two states that differ in all of `V[6]` and `V[7]` (SameMixed) agree after every step but a `WAVE` to voice 6 or 7 under different
flags (R137). -/
def Obligations.OutputIgnoresTheInaudibleState : Prop :=
  (∀ s t : State, SameAudible s t →
    (∀ s', step s = .next s' → ∃ t', step t = .next t' ∧ SameAudible s' t') ∧
    ∀ r, step s = .refused r → step t = .refused r) ∧
  ∀ s t : State, SameMixed s t → UnmixedWaveAgrees s t →
    (∀ s', step s = .next s' → ∃ t', step t = .next t' ∧ SameMixed s' t') ∧
    ∀ r, step s = .refused r → step t = .refused r

/-- `V[6]` is not mixed, and its `dda` flag still reaches the shared write cursor: two states that differ in that flag alone have different
cursors after the same `WAVE` (R137); and since `restore` keeps `V[6]` (R203), so have a core that is in direct-audio mode on voice 6 and the
core that its snapshot is restored into. R20 says that no output depends on `V[6]` and `V[7]`, and R205 that the round trip needs no premise
on them; that the model follows R137 and R203 is its choice (log entry 8). -/
def Obligations.UnmixedDirectAudioFlagReachesTheCursor : Prop :=
  (∀ (s : State) (u : BitVec 8), s.latched = 6 → (s.voice 6).dda = false →
    ∃ t t', exec (.wave u) s = .next t ∧ exec (.wave u) (s.setVoice 6 { s.voice 6 with dda := true }) = .next t' ∧
      t.g.waveWriteCursor ≠ t'.g.waveWriteCursor) ∧
  ∀ (s t : State) (code : BitVec 8), (∀ n : VoiceIndex, n.val < 6 → AcceptedPhase (s.voice n).phase) →
    s.latched = 6 → (s.voice 6).dda = true → (t.voice 6).dda = false →
    ∃ u s' u', restoreSnapshot (takeSnapshot s) t = .next u ∧ u.latched = 6 ∧
      u.g.waveWriteCursor = s.g.waveWriteCursor ∧
      exec (.wave code) s = .next s' ∧ exec (.wave code) u = .next u' ∧
      s'.g.waveWriteCursor ≠ u'.g.waveWriteCursor
end

