-- ==== Sys2Proof/Laws/State.lean ====
section
/-!
SUPPORT. One lemma for each field under each named update of the state, true by `rfl`: a later proof cites these and does not unfold
a record update.
-/

namespace Sys2Proof.Machine

variable (s : State)

@[simp] theorem State.cfg_setVoice (n : VoiceIndex) (v : Voice) : (s.setVoice n v).cfg = s.cfg := rfl
@[simp] theorem State.g_setVoice (n : VoiceIndex) (v : Voice) : (s.setVoice n v).g = s.g := rfl
@[simp] theorem State.queue_setVoice (n : VoiceIndex) (v : Voice) : (s.setVoice n v).queue = s.queue := rfl
@[simp] theorem State.time_setVoice (n : VoiceIndex) (v : Voice) : (s.setVoice n v).time = s.time := rfl
@[simp] theorem State.host_setVoice (n : VoiceIndex) (v : Voice) : (s.setVoice n v).host = s.host := rfl
@[simp] theorem State.activity_setVoice (n : VoiceIndex) (v : Voice) : (s.setVoice n v).activity = s.activity := rfl
@[simp] theorem State.calls_setVoice (n : VoiceIndex) (v : Voice) : (s.setVoice n v).calls = s.calls := rfl
@[simp] theorem State.outbox_setVoice (n : VoiceIndex) (v : Voice) : (s.setVoice n v).outbox = s.outbox := rfl

@[simp] theorem State.cfg_updateVoice (n : VoiceIndex) (f : Voice → Voice) : (s.updateVoice n f).cfg = s.cfg := rfl
@[simp] theorem State.g_updateVoice (n : VoiceIndex) (f : Voice → Voice) : (s.updateVoice n f).g = s.g := rfl
@[simp] theorem State.queue_updateVoice (n : VoiceIndex) (f : Voice → Voice) : (s.updateVoice n f).queue = s.queue := rfl
@[simp] theorem State.time_updateVoice (n : VoiceIndex) (f : Voice → Voice) : (s.updateVoice n f).time = s.time := rfl
@[simp] theorem State.host_updateVoice (n : VoiceIndex) (f : Voice → Voice) : (s.updateVoice n f).host = s.host := rfl
@[simp] theorem State.activity_updateVoice (n : VoiceIndex) (f : Voice → Voice) : (s.updateVoice n f).activity = s.activity := rfl
@[simp] theorem State.calls_updateVoice (n : VoiceIndex) (f : Voice → Voice) : (s.updateVoice n f).calls = s.calls := rfl
@[simp] theorem State.outbox_updateVoice (n : VoiceIndex) (f : Voice → Voice) : (s.updateVoice n f).outbox = s.outbox := rfl

@[simp] theorem State.g_updateGlobals (f : Globals → Globals) : (s.updateGlobals f).g = f s.g := rfl
@[simp] theorem State.cfg_updateGlobals (f : Globals → Globals) : (s.updateGlobals f).cfg = s.cfg := rfl
@[simp] theorem State.voices_updateGlobals (f : Globals → Globals) : (s.updateGlobals f).voices = s.voices := rfl
@[simp] theorem State.queue_updateGlobals (f : Globals → Globals) : (s.updateGlobals f).queue = s.queue := rfl
@[simp] theorem State.time_updateGlobals (f : Globals → Globals) : (s.updateGlobals f).time = s.time := rfl
@[simp] theorem State.host_updateGlobals (f : Globals → Globals) : (s.updateGlobals f).host = s.host := rfl
@[simp] theorem State.activity_updateGlobals (f : Globals → Globals) : (s.updateGlobals f).activity = s.activity := rfl
@[simp] theorem State.calls_updateGlobals (f : Globals → Globals) : (s.updateGlobals f).calls = s.calls := rfl
@[simp] theorem State.outbox_updateGlobals (f : Globals → Globals) : (s.updateGlobals f).outbox = s.outbox := rfl

@[simp] theorem State.cfg_waveWrite (n : VoiceIndex) (i : BitVec 5) (x : Sample) : (s.waveWrite n i x).cfg = s.cfg := rfl
@[simp] theorem State.g_waveWrite (n : VoiceIndex) (i : BitVec 5) (x : Sample) : (s.waveWrite n i x).g = s.g := rfl
@[simp] theorem State.queue_waveWrite (n : VoiceIndex) (i : BitVec 5) (x : Sample) : (s.waveWrite n i x).queue = s.queue := rfl
@[simp] theorem State.time_waveWrite (n : VoiceIndex) (i : BitVec 5) (x : Sample) : (s.waveWrite n i x).time = s.time := rfl
@[simp] theorem State.host_waveWrite (n : VoiceIndex) (i : BitVec 5) (x : Sample) : (s.waveWrite n i x).host = s.host := rfl
@[simp] theorem State.activity_waveWrite (n : VoiceIndex) (i : BitVec 5) (x : Sample) : (s.waveWrite n i x).activity = s.activity := rfl
@[simp] theorem State.calls_waveWrite (n : VoiceIndex) (i : BitVec 5) (x : Sample) : (s.waveWrite n i x).calls = s.calls := rfl
@[simp] theorem State.outbox_waveWrite (n : VoiceIndex) (i : BitVec 5) (x : Sample) : (s.waveWrite n i x).outbox = s.outbox := rfl

@[simp] theorem State.queue_push (c : Command) : (s.push c).queue = s.queue ++ [c] := rfl
@[simp] theorem State.cfg_push (c : Command) : (s.push c).cfg = s.cfg := rfl
@[simp] theorem State.voices_push (c : Command) : (s.push c).voices = s.voices := rfl
@[simp] theorem State.g_push (c : Command) : (s.push c).g = s.g := rfl
@[simp] theorem State.time_push (c : Command) : (s.push c).time = s.time := rfl
@[simp] theorem State.host_push (c : Command) : (s.push c).host = s.host := rfl
@[simp] theorem State.activity_push (c : Command) : (s.push c).activity = s.activity := rfl
@[simp] theorem State.calls_push (c : Command) : (s.push c).calls = s.calls := rfl
@[simp] theorem State.outbox_push (c : Command) : (s.push c).outbox = s.outbox := rfl

@[simp] theorem State.outbox_handOver (r : HostResult) : (s.handOver r).outbox = s.outbox ++ [r] := rfl
@[simp] theorem State.cfg_handOver (r : HostResult) : (s.handOver r).cfg = s.cfg := rfl
@[simp] theorem State.voices_handOver (r : HostResult) : (s.handOver r).voices = s.voices := rfl
@[simp] theorem State.g_handOver (r : HostResult) : (s.handOver r).g = s.g := rfl
@[simp] theorem State.queue_handOver (r : HostResult) : (s.handOver r).queue = s.queue := rfl
@[simp] theorem State.time_handOver (r : HostResult) : (s.handOver r).time = s.time := rfl
@[simp] theorem State.host_handOver (r : HostResult) : (s.handOver r).host = s.host := rfl
@[simp] theorem State.activity_handOver (r : HostResult) : (s.handOver r).activity = s.activity := rfl
@[simp] theorem State.calls_handOver (r : HostResult) : (s.handOver r).calls = s.calls := rfl

@[simp] theorem State.cfg_violation (kind : ViolationKind) : (violation kind s).cfg = s.cfg := rfl
@[simp] theorem State.voices_violation (kind : ViolationKind) : (violation kind s).voices = s.voices := rfl
@[simp] theorem State.queue_violation (kind : ViolationKind) : (violation kind s).queue = s.queue := rfl
@[simp] theorem State.time_violation (kind : ViolationKind) : (violation kind s).time = s.time := rfl
@[simp] theorem State.host_violation (kind : ViolationKind) : (violation kind s).host = s.host := rfl
@[simp] theorem State.activity_violation (kind : ViolationKind) : (violation kind s).activity = s.activity := rfl
@[simp] theorem State.calls_violation (kind : ViolationKind) : (violation kind s).calls = s.calls := rfl
@[simp] theorem State.outbox_violation (kind : ViolationKind) : (violation kind s).outbox = s.outbox := rfl

@[simp] theorem State.g_violation (kind : ViolationKind) :
    (violation kind s).g = { s.g with contractViolation := true } := rfl

@[simp] theorem State.cfg_violationIf (b : Bool) (kind : ViolationKind) : (violationIf b kind s).cfg = s.cfg := by cases b <;> rfl
@[simp] theorem State.voices_violationIf (b : Bool) (kind : ViolationKind) : (violationIf b kind s).voices = s.voices := by cases b <;> rfl
@[simp] theorem State.queue_violationIf (b : Bool) (kind : ViolationKind) : (violationIf b kind s).queue = s.queue := by cases b <;> rfl
@[simp] theorem State.time_violationIf (b : Bool) (kind : ViolationKind) : (violationIf b kind s).time = s.time := by cases b <;> rfl
@[simp] theorem State.host_violationIf (b : Bool) (kind : ViolationKind) : (violationIf b kind s).host = s.host := by cases b <;> rfl
@[simp] theorem State.activity_violationIf (b : Bool) (kind : ViolationKind) : (violationIf b kind s).activity = s.activity := by cases b <;> rfl
@[simp] theorem State.calls_violationIf (b : Bool) (kind : ViolationKind) : (violationIf b kind s).calls = s.calls := by cases b <;> rfl
@[simp] theorem State.outbox_violationIf (b : Bool) (kind : ViolationKind) : (violationIf b kind s).outbox = s.outbox := by cases b <;> rfl

theorem State.g_violationIf (b : Bool) (kind : ViolationKind) :
    (violationIf b kind s).g = { s.g with contractViolation := b || s.g.contractViolation } := by cases b <;> rfl

@[simp] theorem State.voice_updateGlobals (f : Globals → Globals) (n : VoiceIndex) :
    (s.updateGlobals f).voice n = s.voice n := rfl

@[simp] theorem State.voice_violationIf (b : Bool) (kind : ViolationKind) (n : VoiceIndex) :
    (violationIf b kind s).voice n = s.voice n := by cases b <;> rfl

@[simp] theorem State.voice_push (c : Command) (n : VoiceIndex) : (s.push c).voice n = s.voice n := rfl

@[simp] theorem State.voice_handOver (r : HostResult) (n : VoiceIndex) : (s.handOver r).voice n = s.voice n := rfl

@[simp] theorem State.latched_updateVoice (n : VoiceIndex) (f : Voice → Voice) :
    (s.updateVoice n f).latched = s.latched := rfl

@[simp] theorem State.latched_setVoice (n : VoiceIndex) (v : Voice) : (s.setVoice n v).latched = s.latched := rfl

/-- Every field but the voices is the same after writing a voice. -/
theorem State.setVoice_eq (n : VoiceIndex) (v : Voice) :
    s.setVoice n v = { s with voices := (s.setVoice n v).voices } := rfl

/-! ### Reading a voice after writing one -/

@[simp] theorem State.voice_setVoice_same (n : VoiceIndex) (v : Voice) : (s.setVoice n v).voice n = v := by
  simp [State.voice, State.setVoice]

theorem State.voice_setVoice_ne (v : Voice) {n m : VoiceIndex} (h : m ≠ n) : (s.setVoice n v).voice m = s.voice m := by
  have : n.val ≠ m.val := fun e => h (Fin.ext e.symm)
  simp [State.voice, State.setVoice, this]

theorem State.voice_setVoice (n m : VoiceIndex) (v : Voice) :
    (s.setVoice n v).voice m = if m = n then v else s.voice m := by
  split
  · next h => subst h; exact s.voice_setVoice_same _ _
  · next h => exact s.voice_setVoice_ne v h

@[simp] theorem State.voice_updateVoice_same (n : VoiceIndex) (f : Voice → Voice) :
    (s.updateVoice n f).voice n = f (s.voice n) := s.voice_setVoice_same _ _

theorem State.voice_updateVoice_ne (f : Voice → Voice) {n m : VoiceIndex} (h : m ≠ n) :
    (s.updateVoice n f).voice m = s.voice m := s.voice_setVoice_ne _ h

theorem State.voice_updateVoice (n m : VoiceIndex) (f : Voice → Voice) :
    (s.updateVoice n f).voice m = if m = n then f (s.voice n) else s.voice m := s.voice_setVoice _ _ _

/-- Two states with the same voices, read one by one, hold the same voice file. -/
theorem voices_ext {a b : Vector Voice 8} (h : ∀ n : VoiceIndex, a[n.val] = b[n.val]) : a = b := by
  ext i hi
  exact h ⟨i, hi⟩

/-- Writing back the voice that is there changes nothing. -/
@[simp] theorem State.setVoice_voice (n : VoiceIndex) : s.setVoice n (s.voice n) = s := by
  have : (s.setVoice n (s.voice n)).voices = s.voices := voices_ext fun m => by
    have := s.voice_setVoice n m (s.voice n)
    simp only [State.voice] at this ⊢
    rw [this]; split <;> simp_all
  rw [s.setVoice_eq, this]

/-- The second of two writes of one voice stands. -/
@[simp] theorem State.setVoice_setVoice (n : VoiceIndex) (v w : Voice) : (s.setVoice n v).setVoice n w = s.setVoice n w := by
  have : ((s.setVoice n v).setVoice n w).voices = (s.setVoice n w).voices := voices_ext fun m => by
    have h₁ := (s.setVoice n v).voice_setVoice n m w
    have h₂ := s.voice_setVoice n m w
    have h₃ := s.voice_setVoice n m v
    simp only [State.voice] at h₁ h₂ h₃ ⊢
    rw [h₁, h₂, h₃]; split <;> rfl
  rw [State.setVoice_eq (s.setVoice n v), this]
  rfl

end Sys2Proof.Machine
end

