-- ==== Sys2Proof/Laws/Float32.lean ====
section
/-!
SUPPORT. The fields of a binary32 pattern put together from a sign and a magnitude, and the classes that a pattern is in. Later proofs
cite these and do not unfold the bit arithmetic.
-/

namespace Sys2Proof.Machine

/-- A rounded magnitude is at most the infinity's. -/
theorem roundMagnitude_le (num den : Nat) : roundMagnitude num den ≤ 0x7F800000 := Nat.min_le_right ..

theorem roundMagnitude_lt (num den : Nat) : roundMagnitude num den < 2 ^ 31 :=
  Nat.lt_of_le_of_lt (roundMagnitude_le num den) (by decide)

theorem f32WithSign_toNat (negative : Bool) {m : Nat} (h : m < 2 ^ 31) :
    (f32WithSign negative m).toNat = (if negative then 2 ^ 31 else 0) + m := by
  cases negative <;> simp [f32WithSign] <;> omega

theorem f32Sign_withSign (negative : Bool) {m : Nat} (h : m < 2 ^ 31) : f32Sign (f32WithSign negative m) = negative := by
  have e := f32WithSign_toNat negative h
  simp only [f32Sign, BitVec.getLsbD, e, Nat.testBit_eq_decide_div_mod_eq]
  cases negative <;> simp <;> omega

theorem f32Exponent_withSign (negative : Bool) {m : Nat} (h : m < 2 ^ 31) :
    f32Exponent (f32WithSign negative m) = m / 2 ^ 23 := by
  simp only [f32Exponent, f32WithSign_toNat negative h]
  cases negative <;> simp <;> omega

theorem f32Fraction_withSign (negative : Bool) {m : Nat} (h : m < 2 ^ 31) :
    f32Fraction (f32WithSign negative m) = m % 2 ^ 23 := by
  simp only [f32Fraction, f32WithSign_toNat negative h]
  cases negative <;> simp
  omega

/-- The magnitude does not depend on the sign. -/
theorem f32Magnitude_withSign (negative : Bool) {m : Nat} (h : m < 2 ^ 31) :
    f32Magnitude (f32WithSign negative m) = f32Magnitude (f32WithSign false m) := by
  simp only [f32Magnitude, f32Exponent_withSign _ h, f32Fraction_withSign _ h]

/-- A pattern whose magnitude lies below the infinity's is finite. -/
theorem f32Finite_withSign (negative : Bool) {m : Nat} (h : m < 0x7F800000) : f32Finite (f32WithSign negative m) = true := by
  rw [f32Finite, f32Exponent_withSign negative (by omega), bne_iff_ne]
  omega

theorem f32IsInf_inf (negative : Bool) : f32IsInf (f32Inf negative) = true := by cases negative <;> decide

theorem f32Sign_inf (negative : Bool) : f32Sign (f32Inf negative) = negative := by cases negative <;> decide

theorem nan_toNat (sign : BitVec 1) (payload : BitVec 22) :
    (sign ++ 0x1FF#9 ++ payload).toNat = sign.toNat * 2 ^ 31 + 0x1FF * 2 ^ 22 + payload.toNat := by
  have h₁ : (sign ++ 0x1FF#9).toNat = sign.toNat * 2 ^ 9 + 0x1FF := by revert sign; decide
  rw [BitVec.toNat_append, ← Nat.shiftLeft_add_eq_or_of_lt payload.isLt, h₁, Nat.shiftLeft_eq]
  omega

/-- The answer that stands for a NaN is one, whatever its free bits. -/
theorem f32IsNaN_nan (op : F32Op) (a b : F32) : f32IsNaN (f32NaN op a b) = true := by
  simp only [f32IsNaN, f32NaN, f32Exponent, f32Fraction, nan_toNat, Bool.and_eq_true, beq_iff_eq, bne_iff_ne]
  generalize (Config.nanBits op a b).extractLsb' 22 1 = sign
  generalize (Config.nanBits op a b).extractLsb' 0 22 = payload
  have := sign.isLt
  have := payload.isLt
  omega

end Sys2Proof.Machine
end

