-- ==== Sys2Proof/Laws/Ops.lean ====
section
/-!
SUPPORT. What each shared operation can do, said once: the meanings of the register writes, the wavetable, the position map and the
mixing loop. Later proofs cite these and do not unfold the operations.
-/

namespace Sys2Proof.Machine

/-! ### Register writes -/

/-- A register write answers a next state, and writes voices and global registers only. -/
theorem exec_writes (i : Instr) (s : State) : ∃ vs g, exec i s = .next { s with voices := vs, g := g } := by
  cases i with
  | wave u =>
    simp only [exec, execWave]
    split
    · exact ⟨_, s.g, rfl⟩
    · exact ⟨_, _, rfl⟩
  | ctrl en dda vol =>
    simp only [exec, execCtrl]
    split
    · exact ⟨_, _, rfl⟩
    · exact ⟨_, s.g, rfl⟩
  | sel latch => exact ⟨s.voices, _, rfl⟩
  | mvol left right => exact ⟨s.voices, _, rfl⟩
  | frql flo => exact ⟨_, s.g, rfl⟩
  | frqh fhi => exact ⟨_, s.g, rfl⟩
  | pan panL panR => exact ⟨_, s.g, rfl⟩
  | noise ne selector => exact ⟨_, s.g, rfl⟩
  | lfod => exact ⟨s.voices, s.g, rfl⟩
  | lfoc halt ctl => exact ⟨_, s.g, rfl⟩
  | rsvd10 r => exact ⟨s.voices, s.g, rfl⟩
  | rsvd12 r => exact ⟨s.voices, s.g, rfl⟩

/-- `applyRegister` answers a next state, and writes voices and global registers only. -/
theorem applyRegister_writes (r : BitVec 4) (v : BitVec 8) (s : State) :
    ∃ vs g, applyRegister r v s = .next { s with voices := vs, g := g } := exec_writes _ s

/-! ### The wavetable -/

@[simp] theorem Voice.waveRead_set_same (v : Voice) (i : BitVec 5) (x : Sample) :
    Voice.waveRead { v with wave := v.wave.set i.toNat x i.isLt } i.toNat = x := by
  have h : i.toNat < 32 := i.isLt
  simp [Voice.waveRead, h]

theorem Voice.waveRead_set_ne (v : Voice) (i : BitVec 5) (x : Sample) {k : Nat} (h : k ≠ i.toNat) :
    Voice.waveRead { v with wave := v.wave.set i.toNat x i.isLt } k = v.waveRead k := by
  unfold Voice.waveRead
  split
  · simp [Ne.symm h]
  · rfl

/-! ### Positions -/

theorem rawPosition_even (t : Int) (n : Nat) (e : Int) : rawPosition t n e % 2 = 0 := by
  simp only [rawPosition]; omega

theorem clampPosition_bounds (p : Int) {start bufLen : Nat} (h : start ≤ bufLen) :
    start ≤ clampPosition p start bufLen ∧ clampPosition p start bufLen ≤ bufLen := by
  simp only [clampPosition]; omega

theorem clampElapsed_pos (e : Int) : 1 ≤ clampElapsed e := by
  simp only [clampElapsed]; split <;> omega

/-! ### The mixing loop -/

@[simp] theorem outAdd_length (out : List Sample) (i : Nat) (t : Sample) : (outAdd out i t).length = out.length := by
  simp [outAdd]

@[simp] theorem mixPair_length (amp : BitVec 15) (gl gr : BitVec 8) (x : Sample) (i : Nat) (out : List Sample) :
    (mixPair amp gl gr x i out).length = out.length := by
  simp [mixPair]

@[simp] theorem mixPairs_length (c : Config) (v : Voice) (amp : BitVec 15) (wl rate : F32) (gl gr : BitVec 8) (k i : Nat)
    (phase : F32) (out : List Sample) : (mixPairs c v amp wl rate gl gr k i phase out).2.length = out.length := by
  induction k generalizing i phase out with
  | zero => rfl
  | succ k ih => simp only [mixPairs]; rw [ih, mixPair_length]

/-- What mixing one voice does: the voice's phase and the buffer may change, nothing else. -/
theorem mixVoice_writes (n : VoiceIndex) (a b : Nat) (s : State) (out : List Sample) :
    ∃ phase out', mixVoice n a b s out = (s.setVoice n { s.voice n with phase := phase }, out') ∧
      out'.length = out.length := by
  have same : s.setVoice n { s.voice n with phase := (s.voice n).phase } = s := s.setVoice_voice n
  unfold mixVoice
  split
  · exact ⟨(s.voice n).phase, out, by rw [same], rfl⟩
  · split
    · exact ⟨(s.voice n).phase, out, by rw [same], rfl⟩
    · exact ⟨_, _, rfl, mixPairs_length ..⟩

/-- What mixing voices does to the rest of the state and to the buffer's length. -/
theorem mixVoices_writes (ns : List VoiceIndex) (a b : Nat) (s : State) (out : List Sample) :
    (mixVoices ns a b s out).1 = { s with voices := (mixVoices ns a b s out).1.voices } ∧
      (mixVoices ns a b s out).2.length = out.length := by
  induction ns generalizing s out with
  | nil => exact ⟨rfl, rfl⟩
  | cons n ns ih =>
    obtain ⟨phase, out', h, hl⟩ := mixVoice_writes n a b s out
    have e : mixVoices (n :: ns) a b s out = mixVoices ns a b (s.setVoice n { s.voice n with phase := phase }) out' := by
      simp only [mixVoices, List.foldl_cons, h]
    rw [e]
    obtain ⟨h₁, h₂⟩ := ih (s.setVoice n { s.voice n with phase := phase }) out'
    exact ⟨by rw [h₁]; rfl, h₂.trans hl⟩

end Sys2Proof.Machine
end

