-- ==== Sys2Proof/Laws/PerInstr.lean ====
section
/-!
SUPPORT. Facts about each command as syntax. `EncodeRow`: a well-formed command is encoded inside its own row of the opcode map
(30_encoding.md rule R74).
-/

namespace Sys2Proof.Laws.EncodeRow

/-- The command word lies in the command's row. -/
def Statement (i : Instr) : Prop := i.WellFormed → i.row.holds (encode i) = true

theorem index_fixes_row (r : BitVec 4) (v : BitVec 8) (m : BitVec 4) :
    (r ++ v) &&& (m ++ (0#8)) = (r &&& m) ++ 0#8 := by
  ext i hi
  simp only [BitVec.getElem_and, BitVec.getElem_append]
  split <;> simp

theorem sel (latch : BitVec 3) : Statement (.sel latch) := fun _ => by
  have h := index_fixes_row 0 (Instr.sel latch).value 0xF
  exact beq_iff_eq.mpr h
theorem mvol (left right : BitVec 4) : Statement (.mvol left right) := fun _ =>
  beq_iff_eq.mpr (index_fixes_row 1 (Instr.mvol left right).value 0xF)
theorem frql (flo : BitVec 8) : Statement (.frql flo) := fun _ =>
  beq_iff_eq.mpr (index_fixes_row 2 (Instr.frql flo).value 0xF)
theorem frqh (fhi : BitVec 4) : Statement (.frqh fhi) := fun _ =>
  beq_iff_eq.mpr (index_fixes_row 3 (Instr.frqh fhi).value 0xF)
theorem ctrl (en dda : Bool) (vol : BitVec 5) : Statement (.ctrl en dda vol) := fun _ =>
  beq_iff_eq.mpr (index_fixes_row 4 (Instr.ctrl en dda vol).value 0xF)
theorem pan (panL panR : BitVec 4) : Statement (.pan panL panR) := fun _ =>
  beq_iff_eq.mpr (index_fixes_row 5 (Instr.pan panL panR).value 0xF)
theorem wave (u : BitVec 8) : Statement (.wave u) := fun _ =>
  beq_iff_eq.mpr (index_fixes_row 6 (Instr.wave u).value 0xF)
theorem noise (ne : Bool) (selector : BitVec 5) : Statement (.noise ne selector) := fun _ =>
  beq_iff_eq.mpr (index_fixes_row 7 (Instr.noise ne selector).value 0xF)
theorem lfod : Statement .lfod := fun _ => by decide
theorem lfoc (halt : Bool) (ctl : BitVec 2) : Statement (.lfoc halt ctl) := fun _ =>
  beq_iff_eq.mpr (index_fixes_row 9 (Instr.lfoc halt ctl).value 0xF)
theorem rsvd10 (r : BitVec 4) : Statement (.rsvd10 r) := by unfold Statement; revert r; decide
theorem rsvd12 (r : BitVec 4) : Statement (.rsvd12 r) := by unfold Statement; revert r; decide

end Sys2Proof.Laws.EncodeRow
end

