-- ==== Sys2Proof/Laws/Steps.lean ====
section
/-!
SUPPORT. What one step does, said once for each kind of step, and what `restore` and the host operations can write. Later proofs cite
these and do not unfold `step`.
-/

namespace Sys2Proof.Machine

/-! ### The kinds of step -/

/-- An idle core that the host has not called waits. -/
theorem step_idle_wait {s : State} (wf : s.cfg.wf = true) (idle : s.activity = .idle) (none : s.calls = []) : step s = .next s := by
  simp only [step, wf, idle, beginCall, none, if_true]

/-- An idle core begins its oldest call. -/
theorem step_idle_call {s : State} {op : HostOp} {rest : List HostCall} (wf : s.cfg.wf = true) (idle : s.activity = .idle)
    (call : s.calls = ⟨op, none⟩ :: rest) : step s = beginOp op { s with calls := rest } := by
  simp [step, wf, idle, beginCall, call]

/-- A call with another call inside it is refused. -/
theorem step_idle_reentrant {s : State} {op inner : HostOp} {rest : List HostCall} (wf : s.cfg.wf = true) (idle : s.activity = .idle)
    (call : s.calls = ⟨op, some inner⟩ :: rest) : step s = .refused .reentrantCall := by
  simp [step, wf, idle, beginCall, call]

/-- A step of `beginFrame` with a command queued runs that command. -/
theorem step_draining_command {s : State} {c : Int} {cmd : Command} {rest : List Command} (wf : s.cfg.wf = true)
    (act : s.activity = .draining c) (queue : s.queue = cmd :: rest) :
    step s = exec (decodeCommand cmd.r cmd.v) { s with queue := rest } := by
  simp [step, wf, act, drainStep, queue, applyRegister]

/-- The last step of `beginFrame` records the origin. -/
theorem step_draining_end {s : State} {c : Int} (wf : s.cfg.wf = true) (act : s.activity = .draining c) (queue : s.queue = []) :
    step s = .next { s with time := { s.time with origin := c }, activity := .idle } := by
  simp [step, wf, act, drainStep, queue]

/-- A step of `getSamples` with a command queued mixes up to its position and runs that command. -/
theorem step_mixing_command {s : State} {elapsed : Int} {start : Nat} {out : List Sample} {cmd : Command} {rest : List Command}
    (wf : s.cfg.wf = true) (act : s.activity = .mixing elapsed start out) (queue : s.queue = cmd :: rest) :
    step s = exec (decodeCommand cmd.r cmd.v) (mixToCommand elapsed start out cmd { s with queue := rest }) := by
  simp [step, wf, act, mixStep, queue, applyRegister]

/-- The last step of `getSamples` mixes the remaining segment and hands the buffer back. -/
theorem step_mixing_end {s : State} {elapsed : Int} {start : Nat} {out : List Sample} (wf : s.cfg.wf = true)
    (act : s.activity = .mixing elapsed start out) (queue : s.queue = []) : step s = .next (finishSamples start out s) := by
  simp [step, wf, act, mixStep, queue]

/-! ### What `getSamples` writes between its commands -/

/-- Mixing up to a command writes voices, the violation flag, and the operation's own locals. -/
theorem mixToCommand_writes (elapsed : Int) (start : Nat) (out : List Sample) (cmd : Command) (s : State) :
    ∃ voices flag out', out'.length = out.length ∧
      mixToCommand elapsed start out cmd s = { s with
        voices := voices
        g := { s.g with contractViolation := flag }
        activity := .mixing elapsed (clampPosition (rawPosition cmd.timeOffset out.length elapsed) start out.length) out' } := by
  obtain ⟨h, hl⟩ := mixVoices_writes mixedVoices start
    (clampPosition (rawPosition cmd.timeOffset out.length elapsed) start out.length)
    (violationIf (positionBroken (rawPosition cmd.timeOffset out.length elapsed) start out.length) .positionOutOfRange s) out
  refine ⟨(mixToCommand elapsed start out cmd s).voices,
    positionBroken (rawPosition cmd.timeOffset out.length elapsed) start out.length || s.g.contractViolation, _, hl, ?_⟩
  simp only [mixToCommand, mixSegment]
  rw [h]
  simp [State.g_violationIf]

/-- The end of `getSamples` writes voices, and hands over one buffer of the same length. -/
theorem finishSamples_writes (start : Nat) (out : List Sample) (s : State) :
    ∃ voices out', out'.length = out.length ∧
      finishSamples start out s = { s with voices := voices, activity := .idle, outbox := s.outbox ++ [.samples out'] } := by
  obtain ⟨h, hl⟩ := mixVoices_writes mixedVoices start out.length s out
  refine ⟨(finishSamples start out s).voices, _, hl, ?_⟩
  simp only [finishSamples, mixSegment]
  rw [h]
  rfl

/-! ### What `restore` writes -/

/-- The fields of one voice, written back, change that voice alone. -/
theorem restoreVoice_writes {n : VoiceIndex} {record : VoiceRecord} {s t : State} (h : restoreVoice n record s = some t) :
    ∃ v, record.into (s.voice n) = some v ∧ t = s.setVoice n v := by
  simp only [restoreVoice, Option.bind_eq_bind, Option.bind_eq_some_iff, Option.some.injEq] at h
  obtain ⟨v, hv, rfl⟩ := h
  exact ⟨v, hv, rfl⟩

/-- The noise fields of one voice, written back, change that voice alone. -/
theorem restoreNoise_writes {n : VoiceIndex} {record : NoiseRecord} {s t : State} (h : restoreNoise n record s = some t) :
    ∃ v, record.into (s.voice n) = some v ∧ t = s.setVoice n v := by
  simp only [restoreNoise, Option.bind_eq_bind, Option.bind_eq_some_iff, Option.some.injEq] at h
  obtain ⟨v, hv, rfl⟩ := h
  exact ⟨v, hv, rfl⟩

/-- The global fields, written back, change the global registers alone, and not the violation flag. -/
theorem restoreGlobals_writes {record : Snapshot} {s t : State} (h : restoreGlobals record s = some t) :
    ∃ g, g.contractViolation = s.g.contractViolation ∧ t = { s with g := g } := by
  simp only [restoreGlobals, Option.bind_eq_bind, Option.bind_eq_some_iff, Option.some.injEq] at h
  obtain ⟨left, _, right, _, latch, _, cursor, _, rfl⟩ := h
  exact ⟨⟨latch, left, right, cursor, s.g.contractViolation⟩, rfl, rfl⟩

/-- A `restore` that is not refused writes voices, global registers and the queue, which it empties. -/
theorem restoreSnapshot_writes {record : Snapshot} {s t : State} (h : restoreSnapshot record s = .next t) :
    t = { s with voices := t.voices, g := t.g, queue := [] } ∧
      t.g.contractViolation = (!s.queue.isEmpty || s.g.contractViolation) := by
  simp only [restoreSnapshot] at h
  split at h
  · next u hu =>
    cases h
    simp only [restoreFields, Option.bind_eq_bind, Option.bind_eq_some_iff] at hu
    obtain ⟨_, _, _, _, s₀, h₀, s₁, h₁, s₂, h₂, s₃, h₃, s₄, h₄, s₅, h₅, s₆, h₆, s₇, h₇, hg⟩ := hu
    obtain ⟨v₀, -, rfl⟩ := restoreVoice_writes h₀
    obtain ⟨v₁, -, rfl⟩ := restoreVoice_writes h₁
    obtain ⟨v₂, -, rfl⟩ := restoreVoice_writes h₂
    obtain ⟨v₃, -, rfl⟩ := restoreVoice_writes h₃
    obtain ⟨v₄, -, rfl⟩ := restoreVoice_writes h₄
    obtain ⟨v₅, -, rfl⟩ := restoreVoice_writes h₅
    obtain ⟨v₆, -, rfl⟩ := restoreNoise_writes h₆
    obtain ⟨v₇, -, rfl⟩ := restoreNoise_writes h₇
    obtain ⟨g, flag, rfl⟩ := restoreGlobals_writes hg
    refine ⟨?_, ?_⟩
    · cases s.queue.isEmpty <;> rfl
    · simpa [State.g_violationIf] using flag
  · cases h

/-! ### Agreement of two states -/

/-- Agreement on the audible state is agreement on the mixed state and on the flags of the two voices that are never mixed. -/
theorem sameAudible_iff (s t : State) :
    SameAudible s t ↔ SameMixed s t ∧ (s.voice 6).dda = (t.voice 6).dda ∧ (s.voice 7).dda = (t.voice 7).dda := by
  unfold SameAudible SameMixed
  tauto

theorem SameMixed.refl (s : State) : SameMixed s s := ⟨fun _ _ => rfl, rfl, rfl, rfl⟩

/-- Two states that agree on the mixed state have the same fields but for the voices and the violation flag. -/
theorem SameMixed.fields {s t : State} (h : SameMixed s t) :
    s.cfg = t.cfg ∧ s.queue = t.queue ∧ s.time = t.time ∧ s.host = t.host ∧ s.activity = t.activity ∧ s.calls = t.calls ∧
      s.outbox = t.outbox ∧ s.latched = t.latched ∧ s.g.waveWriteCursor = t.g.waveWriteCursor := by
  obtain ⟨-, -, -, h⟩ := h
  rw [← h]
  exact ⟨rfl, rfl, rfl, rfl, rfl, rfl, rfl, rfl, rfl⟩

end Sys2Proof.Machine
end

