-- ==== Sys2Proof/Tests/Slice0.lean ====
section
/-!
SUPPORT. The model's own tests and the witnesses of the statements' hypotheses. Expected values come from spec/95_test_vectors.md (named
in each comment) or from the encoding tables of spec/30_encoding.md; the configuration is the test configuration of its section 0.
-/

namespace Sys2Proof.Tests

open Sys2Proof Sys2Proof.Machine

/-! ### The test configuration and small states -/

/-- 95_test_vectors.md section 0. -/
def testCfg : Config where
  mclk := 3580000
  outputRate := 44100
  red := #v[0x1F, 0x1D, 0x1B, 0x19, 0x17, 0x15, 0x13, 0x10, 0x0F, 0x0D, 0x0B, 0x09, 0x07, 0x05, 0x03, 0x00]
  log := #v[0, 0, 10, 10, 13, 13, 16, 16, 20, 20, 26, 26, 32, 32, 40, 40, 51, 51, 64, 64, 81, 81, 102, 102, 128, 128, 161, 161,
    203, 203, 255, 255]
  noise := [0x7FFF, 0x8000, 0x8000, 0x7FFF, 0x7FFF, 0x7FFF, 0x8000, 0x8000]

/-- The core after reset with the test configuration. -/
def base : State := { State.reset with cfg := testCfg }

/-- A core whose latch selects `n`. -/
def latching (n : BitVec 3) : State := base.updateGlobals fun g => { g with voiceLatch := n }

/-- A core whose write cursor is at `i`. -/
def cursorAt (i : BitVec 5) : State := base.updateGlobals fun g => { g with waveWriteCursor := i }

/-- A core that the host has called. -/
def called (op : HostOp) : State := { base with calls := [⟨op, none⟩] }

/-- A core with a sounding voice 0: frequency 0x100, volume 31, panning 0xFF, both master selectors 15. -/
def sounding : State :=
  (base.updateVoice 0 fun v => { v with frequency := 0x100, volume := 31, panning := 0xFF, enabled := true, ddaValue := 30690 }).updateGlobals
    fun g => { g with mainVolumeLeft := 15, mainVolumeRight := 15 }

/-- The answer is a next state with the property. -/
def nextHas (x : Answer) (p : State → Bool) : Bool :=
  match x with
  | .next t => p t
  | .fault _ => false
  | .refused _ => false

/-- The answer is the refusal. -/
def refusedAs (x : Answer) (r : Refusal) : Bool :=
  match x with
  | .next _ => false
  | .fault f => nomatch f
  | .refused r' => r' == r

/-! ### WellFormed refuses the ill-formed terms -/

theorem test_rsvd10_low_index_refused : (Instr.rsvd10 9).wf = false := by decide
theorem test_rsvd10_high_index_refused : (Instr.rsvd10 12).wf = false := by decide
theorem test_rsvd12_low_index_refused : (Instr.rsvd12 11).wf = false := by decide

/-! ### Decoding: words written out from R70, R72 and R74, field by field -/

theorem test_decode_sel : decode 0b0000_11111_101#12 = .sel 5 := by decide
theorem test_decode_mvol : decode 0b0001_1111_0011#12 = .mvol 15 3 := by decide
theorem test_decode_frql : decode 0b0010_10010110#12 = .frql 0x96 := by decide
theorem test_decode_frqh : decode 0b0011_1010_0111#12 = .frqh 7 := by decide
theorem test_decode_ctrl_enable : decode 0b0100_1_0_1_11110#12 = .ctrl true false 30 := by decide
theorem test_decode_ctrl_dda : decode 0b0100_0_1_0_00001#12 = .ctrl false true 1 := by decide
theorem test_decode_pan : decode 0b0101_1100_0010#12 = .pan 12 2 := by decide
theorem test_decode_wave : decode 0b0110_00100001#12 = .wave 0x21 := by decide
theorem test_decode_noise : decode 0b0111_1_11_01010#12 = .noise true 10 := by decide
theorem test_decode_lfod : decode 0b1000_01010101#12 = .lfod := by decide
theorem test_decode_lfoc : decode 0b1001_0_11111_10#12 = .lfoc false 2 := by decide
theorem test_decode_lfoc_halt : decode 0b1001_1_00000_01#12 = .lfoc true 1 := by decide
theorem test_decode_rsvd_10 : decode 0b1010_00000000#12 = .rsvd10 10 := by decide
theorem test_decode_rsvd_12 : decode 0b1100_11111111#12 = .rsvd12 12 := by decide
theorem test_decode_rsvd_15 : decode 0b1111_00000000#12 = .rsvd12 15 := by decide
/-- R70: a number wider than the command word is none. -/
theorem test_wide_word_rejected : decodeTableWord 16 0x1000 = none := by decide
theorem test_table_word : decodeTableWord 16 0x49F = some (.ctrl true false 31) := by decide
/-- The encoder against words of 95_test_vectors.md part 3. -/
theorem test_encode_ctrl : encode (.ctrl true true 31) = 0x4DF := by decide
theorem test_encode_noise : encode (.noise true 26) = 0x79A := by decide

/-! ### Register writes (V-DEC) -/

/-- V-DEC-1. -/
theorem test_sel : nextHas (exec (decode 0x00D) base) (·.g.voiceLatch == 5) = true := by decide
/-- V-DEC-3. -/
theorem test_mvol : nextHas (exec (decode 0x1F3) base) (fun t => t.g.mainVolumeLeft == 15 && t.g.mainVolumeRight == 3) = true := by
  decide
/-- V-DEC-4. -/
theorem test_frql : nextHas (exec (decode 0x212) (base.updateVoice 0 fun v => { v with frequency := 0x3AB }))
    (fun t => (t.voice 0).frequency == 0x312) = true := by decide
/-- V-DEC-5. -/
theorem test_frqh : nextHas (exec (decode 0x3A7) (base.updateVoice 0 fun v => { v with frequency := 0x0FE }))
    (fun t => (t.voice 0).frequency == 0x7FE) = true := by decide
/-- V-DEC-7. -/
theorem test_ctrl_cursor_reset : nextHas (exec (decode 0x440) (cursorAt 17))
    (fun t => t.g.waveWriteCursor == 0 && (t.voice 0).dda && !(t.voice 0).enabled) = true := by decide
/-- V-DEC-9. -/
theorem test_ctrl_ignores_bit_5 : nextHas (exec (decode 0x43F) (cursorAt 17))
    (fun t => t.g.waveWriteCursor == 17 && (t.voice 0).volume == 31 && !(t.voice 0).dda) = true := by decide
/-- V-DEC-10. -/
theorem test_pan : nextHas (exec (decode 0x5F0) base) (fun t => (t.voice 0).panning == 0xF0) = true := by decide
/-- V-DEC-11. -/
theorem test_wave_cursor_wraps : nextHas (exec (decode 0x61F) (cursorAt 31))
    (fun t => ((t.voice 0).waveRead 31).toInt == 30690 && t.g.waveWriteCursor == 0) = true := by decide
/-- V-DEC-12. -/
theorem test_wave_direct_audio : nextHas (exec (decode 0x610) ((cursorAt 5).updateVoice 0 fun v => { v with dda := true }))
    (fun t => (t.voice 0).ddaValue.toInt == -15 && t.g.waveWriteCursor == 5) = true := by decide
/-- V-DEC-14, V-DEC-16: codes above 32 wrap. -/
theorem test_sample_codes_wrap : (sampleOfCode 0x21).toInt = -30752 ∧ (sampleOfCode 0xFF).toInt = 30466 := by decide
/-- V-DEC-18. -/
theorem test_noise_folds_31 : nextHas (exec (decode 0x79F) (latching 4))
    (fun t => (t.voice 4).noiseChannel && (t.voice 4).noiseFrequency == 55937) = true := by decide
/-- V-DEC-22. -/
theorem test_noise_gated_below_4 : nextHas (exec (decode 0x780) (latching 2))
    (fun t => !(t.voice 2).noiseChannel && (t.voice 2).noiseFrequency == 1804) = true := by decide
/-- V-DEC-25. -/
theorem test_lfod : nextHas (exec (decode 0x855) sounding) (· == sounding) = true := by decide
/-- V-DEC-26. -/
theorem test_lfoc_disables_voice_1 : nextHas (exec (decode 0x902) ((latching 3).updateVoice 1 fun v => { v with enabled := true }))
    (fun t => !(t.voice 1).enabled && t.voice 3 == Voice.reset) = true := by decide
/-- V-DEC-29. -/
theorem test_lfoc_enables_voice_1 : nextHas (exec (decode 0x980) base) (fun t => (t.voice 1).enabled) = true := by decide
/-- V-DEC-30. -/
theorem test_rsvd : nextHas (exec (decode 0xCFF) sounding) (· == sounding) = true := by decide
theorem test_rsvd_10 : nextHas (exec (decode 0xAFF) sounding) (· == sounding) = true := by decide

/-! ### Pseudo-instructions (R78; the words of 95_test_vectors.md part 3) -/

theorem test_freq_expansion : (expand (.freq 0x100)).map encode = [0x200, 0x301] := by decide
theorem test_note_on_expansion : (expand (.noteOn 31)).map encode = [0x49F] := by decide
theorem test_dda_on_expansion : (expand (.ddaOn 31)).map encode = [0x4DF] := by decide
theorem test_noise_on_expansion : (expand (.noiseOn 26)).map encode = [0x79A] := by decide

/-! ### A step from reset runs the stored instruction -/

theorem test_reset_step_runs_sel :
    nextHas (step (State.reset.withFetchWord 16 0x003)) (fun t => t.g.voiceLatch == 3 && t.queue.isEmpty) = true := by decide
/-- A word of each row of R74 runs as the first instruction after reset. -/
theorem test_reset_step_runs_every_row :
    ([0x000, 0x100, 0x200, 0x300, 0x400, 0x500, 0x600, 0x700, 0x800, 0x900, 0xA00, 0xC00].all fun w =>
      nextHas (step (State.reset.withFetchWord 16 w)) fun t => t.queue.isEmpty) = true := by decide

/-! ### Positions (V-TIM) -/

/-- V-TIM-2, V-TIM-8, V-TIM-11. -/
theorem test_positions : rawPosition 37 8 100 = 2 ∧ rawPosition 14915 1470 29830 = 734 ∧ rawPosition (-10) 8 100 = -2 := by decide
/-- V-TIM-10, V-TIM-11, V-TIM-12. -/
theorem test_clamps : clampPosition 6 0 4 = 4 ∧ clampPosition (-2) 0 8 = 0 ∧ clampPosition 2 4 8 = 4 := by decide

/-! ### Oscillator and mixer (V-OSC, V-MIX) -/

/-- V-OSC-1. -/
theorem test_tone_frequency : playbackFrequency testCfg (sounding.voice 0) = some 437 := by decide
/-- V-OSC-2, tone F = 0x100. -/
theorem test_rate : phaseRate testCfg 437 32 = 0x3EA25A9B := by decide +kernel
/-- V-OSC-2, tone F = 2. -/
theorem test_fast_rate : phaseRate testCfg 55937 32 = 0x42225B59 := by decide +kernel
/-- V-OSC-2, direct audio without noise. -/
theorem test_zero_rate : phaseRate testCfg 0 32 = 0 := by decide +kernel
/-- V-OSC-3d: 29.5 pre-wrapped to the noise length 8 reads entry 5. -/
theorem test_pre_wrap : f32TruncInt (f32Fmod 0x41EC0000 (f32OfNat 8)) = 5 := by decide +kernel
/-- V-OSC-3g: 31.75 + 0.5 wraps to 0.25. -/
theorem test_post_wrap : advancePhase (f32OfNat 32) 0x3F000000 0x41FE0000 = 0x3E800000 := by decide +kernel
/-- V-MIX-1, row `mainVolume` 12, pan nibble 13, volume 30. -/
theorem test_level : channelLevel (reduction testCfg 12) (reduction testCfg 13) 30 = 18 := by decide
/-- V-MIX-2. -/
theorem test_scale : scaleSample 32767 (wrap16 (-28673)) 64 = -1199 ∧ scaleSample 16384 30690 255 = 2557 := by decide
/-- V-MIX-2, truncation toward zero. -/
theorem test_scale_truncates : scaleSample 32767 (wrap16 (-1)) 255 = 0 := by decide
/-- V-MIX-3d: accumulation wraps. -/
theorem test_accumulation_wraps :
    (mixSegment 0 2 (sounding.updateVoice 0 fun v => { v with wave := Vector.replicate 32 30690 }) [32000, wrap16 (-32000)]).2 =
      [wrap16 (-28421), wrap16 (-26885)] := by decide +kernel
/-- V-SER-4 (a snapshot with `voiceCount` 8). -/
theorem test_restore_voice_count : refusedAs (restoreSnapshot { takeSnapshot base with voiceCount := some (.int 8) } base) .badSnapshot = true := by
  decide
/-- V-SER-6. -/
theorem test_restore_drops_the_queue : nextHas (restoreSnapshot (takeSnapshot base) { base with queue := [⟨0, 1, 5⟩] })
    (fun t => t.queue.isEmpty && t.g.contractViolation) = true := by decide +kernel
/-- V-VIO-3. -/
theorem test_odd_buffer : refusedAs (step (called (.getSamples (List.replicate 7 0)))) (.oddBufferLength 7) = true := by decide
/-- V-VIO-4. -/
theorem test_value_256 : refusedAs (step (called (.writeRegister 0 256 0))) (.valueOutOfRange 256) = true := by decide
/-- V-TIM-16. -/
theorem test_write_queues : nextHas (step { called (.writeRegister 0x24 0x9F 1300) with time := ⟨1000, 0⟩ })
    (fun t => t.queue == [⟨4, 0x9F, 300⟩]) = true := by decide

/-! ### Witnesses: a concrete state and operands that meet the hypotheses of each statement -/

theorem witness_EncodeThenDecodeIsTheCommand :
    (Instr.rsvd10 10).WellFormed ∧ (Instr.rsvd10 11).WellFormed ∧ (Instr.rsvd12 12).WellFormed ∧ (Instr.rsvd12 15).WellFormed ∧
      (Instr.noise true 31).WellFormed := by decide

theorem witness_WaveFillsTheTableOrTheDirectSample :
    ((cursorAt 31).voice (cursorAt 31).latched).dda = false ∧ (0 : Nat) ≠ (cursorAt 31).g.waveWriteCursor.toNat ∧
      ((base.updateVoice 0 fun v => { v with dda := true }).voice base.latched).dda = true := by decide

theorem witness_LfodAndReservedChangeNothing : 10 ≤ (10 : BitVec 4).toNat ∧ 10 ≤ (15 : BitVec 4).toNat := by decide

theorem witness_OnlyTheLatchedVoiceIsWritten :
    (7 : VoiceIndex) ≠ (latching 2).latched ∧ ((7 : VoiceIndex) = 1 → (Instr.lfoc false 1).index ≠ 9) ∧
      (1 : VoiceIndex) ≠ (latching 2).latched ∧ ((1 : VoiceIndex) = 1 → (Instr.pan 1 2).index ≠ 9) := by decide

theorem witness_RegisterWritesButWaveAreIdempotent :
    (Instr.ctrl false true 0).index ≠ 6 ∧
      ((base.updateVoice 0 fun v => { v with dda := true }).voice base.latched).dda = true := by decide

theorem witness_WaveWritesFillTheTableFromTheCursor :
    (base.voice base.latched).dda = false ∧ (32 < (List.replicate 33 0x1F#8).length ∧ (List.replicate 33 0x1F#8).length ≤ 32 + 32) ∧
      (1 < (List.replicate 33 0x1F#8).length ∧ (List.replicate 33 0x1F#8).length ≤ 1 + 32) ∧
      ∀ k < (List.replicate 31 0x1F#8).length, (base.g.waveWriteCursor.toNat + k) % 32 ≠ 31 := by decide

theorem witness_ModesChangeOnlyByTheTable :
    (0 : VoiceIndex) ≠ (latching 4).latched ∧ (0 : VoiceIndex) ≠ 1 ∧ (Instr.wave 3).index ≠ 4 ∧ (Instr.wave 3).index ≠ 7 ∧
      (Instr.wave 3).index ≠ 9 := by decide

theorem witness_WaveWriteChangesOneEntry :
    (0 : Nat) ≠ (31 : BitVec 5).toNat ∧ (Instr.noise true 3).index ≠ 6 ∧ (base.voice base.latched).dda = false := by decide

/-- The drain clause. -/
theorem witness_StepAppliesTheOldestCommand_drain :
    ∃ (s : State) (c : Int) (cmd : Command) (rest : List Command) (i : Instr), s.cfg.wf = true ∧ s.activity = .draining c ∧
      s.queue = cmd :: rest ∧ decodeCommand cmd.r cmd.v = i :=
  ⟨{ base with activity := .draining 7, queue := [⟨0, 3, 0⟩] }, 7, ⟨0, 3, 0⟩, [], .sel 3, by decide, rfl, rfl, by decide⟩

/-- The mixing clause at a position inside the segment. -/
theorem witness_StepAppliesTheOldestCommand_mixing :
    ∃ (s : State) (elapsed : Int) (start : Nat) (out : List Sample) (cmd : Command) (rest : List Command) (i : Instr) (p : Int)
      (position : Nat) (before mixed : State) (out' : List Sample), s.cfg.wf = true ∧ s.activity = .mixing elapsed start out ∧
      s.queue = cmd :: rest ∧ decodeCommand cmd.r cmd.v = i ∧
      p = Int.fdiv (cmd.timeOffset * out.length) elapsed - Int.fdiv (cmd.timeOffset * out.length) elapsed % 2 ∧
      position = (min (max p start) out.length).toNat ∧
      before = (if p < start ∨ (out.length : Int) < p then
        { s with queue := rest, g := { s.g with contractViolation := true } } else { s with queue := rest }) ∧
      mixSegment start position before out = (mixed, out') :=
  ⟨{ base with activity := .mixing 100 0 (List.replicate 8 0), queue := [⟨0, 3, 50⟩] }, 100, 0, List.replicate 8 0, ⟨0, 3, 50⟩, [],
    .sel 3, 4, 4, _, _, _, by decide, rfl, rfl, by decide, by decide, by decide, rfl, rfl⟩

/-- The mixing clause's positions at the edges: past the buffer, and before the cursor. -/
theorem witness_StepAppliesTheOldestCommand_edges :
    Int.fdiv (150 * (4 : Nat)) 100 - Int.fdiv (150 * (4 : Nat)) 100 % 2 = 6 ∧ (min (max (6 : Int) (0 : Nat)) (4 : Nat)).toNat = 4 ∧
      Int.fdiv (-10 * (8 : Nat)) 100 - Int.fdiv (-10 * (8 : Nat)) 100 % 2 = -2 ∧ (min (max (-2 : Int) (0 : Nat)) (8 : Nat)).toNat = 0 := by
  decide

theorem witness_BeginFrameRunIsTheWholeDrain :
    ({ called (.beginFrame 500) with queue := [⟨0, 3, 10⟩] } : State).cfg.wf = true ∧ (called (.beginFrame 500)).activity = .idle ∧
      (called (.beginFrame 500)).calls = ⟨.beginFrame 500, none⟩ :: [] := by decide

theorem witness_GetSamplesRunIsTheWholeSplice :
    (called (.getSamples [1, 2])).cfg.wf = true ∧ (called (.getSamples [1, 2])).activity = .idle ∧
      (called (.getSamples [1, 2])).calls = ⟨.getSamples [1, 2], none⟩ :: [] ∧ [1, 2].length % 2 = 0 := by decide

theorem witness_EndFrameWritesOnlyTheEnd :
    (called (.endFrame 1600)).cfg.wf = true ∧ (called (.endFrame 1600)).activity = .idle ∧
      (called (.endFrame 1600)).calls = ⟨.endFrame 1600, none⟩ :: [] := by decide

theorem witness_WriteRegisterOnlyQueues :
    (called (.writeRegister 0x24 255 3)).cfg.wf = true ∧ (called (.writeRegister 0x24 255 3)).activity = .idle ∧
      (called (.writeRegister 0x24 255 3)).calls = ⟨.writeRegister 0x24 255 3, none⟩ :: [] ∧
      ((0 : Int) ≤ 0 ∧ (0 : Int) ≤ 255) ∧ ((0 : Int) ≤ 255 ∧ (255 : Int) ≤ 255) ∧ ((-1 : Int) < 0 ∨ 255 < (-1 : Int)) ∧
      ((256 : Int) < 0 ∨ 255 < (256 : Int)) := by decide

/-- The clause of a call inside `getSamples`. -/
theorem witness_WriteRegisterOnlyQueues_inside :
    ({ base with calls := [⟨.getSamples [1, 2], some (.writeRegister 4 0x9F 3)⟩] } : State).cfg.wf = true ∧
      ({ base with calls := [⟨.getSamples [1, 2], some (.writeRegister 4 0x9F 3)⟩] } : State).activity = .idle ∧
      step { base with calls := [⟨.getSamples [1, 2], some (.writeRegister 4 0x9F 3)⟩] } = .refused .reentrantCall := by
  exact ⟨by decide, rfl, rfl⟩

theorem witness_CallInsideGetSamplesIsRefused :
    ({ base with calls := [⟨.getSamples [], some (.endFrame 3)⟩] } : State).cfg.wf = true ∧
      ({ base with calls := [⟨.getSamples [], some (.endFrame 3)⟩] } : State).activity = .idle := by decide

theorem witness_DiscardSamplesKeepsTheQueue :
    ({ called .discardSamples with queue := [⟨2, 0x10, 5⟩] } : State).cfg.wf = true ∧ (called .discardSamples).activity = .idle ∧
      (called .discardSamples).calls = ⟨.discardSamples, none⟩ :: [] := by decide

/-- Odd and even buffers, the empty one among them. -/
theorem witness_GetSamplesBeginsWithThePositiveElapsed :
    (called (.getSamples [])).cfg.wf = true ∧ (called (.getSamples [])).activity = .idle ∧
      (called (.getSamples [])).calls = ⟨.getSamples [], none⟩ :: [] ∧ ([] : List Sample).length % 2 = 0 ∧
      [(3 : Sample)].length % 2 = 1 := by decide

theorem witness_HostSettingsAreSetOrRefused :
    (called (.setMute 7 true)).cfg.wf = true ∧ (called (.setMute 7 true)).activity = .idle ∧
      (called (.setMute 7 true)).calls = ⟨.setMute 7 true, none⟩ :: [] ∧
      (called (.setAmp 32767)).calls = ⟨.setAmp 32767, none⟩ :: [] ∧ ((0 : Int) ≤ 0 ∧ (0 : Int) ≤ 32767) ∧
      ((0 : Int) ≤ 32767 ∧ (32767 : Int) ≤ 32767) ∧ ((-1 : Int) < 0 ∨ 32767 < (-1 : Int)) ∧
      ((32768 : Int) < 0 ∨ 32767 < (32768 : Int)) := by decide

theorem witness_IdleCoreWaitsAndBadConfigurationIsRefused :
    base.cfg.wf = true ∧ base.activity = .idle ∧ base.calls = [] ∧
      ({ base with cfg := { testCfg with mclk := 0 } } : State).cfg.mclk = 0 ∧
      ({ base with cfg := { testCfg with noise := [] } } : State).cfg.noise = [] := by decide

theorem witness_SnapshotReadsTheListedFields :
    (called .snapshot).cfg.wf = true ∧ (called .snapshot).activity = .idle ∧
      (called .snapshot).calls = ⟨.snapshot, none⟩ :: [] := by decide

theorem accepted_zero_phase : AcceptedPhase 0 := ⟨by decide, .inl (by decide)⟩

theorem base_voice (n : VoiceIndex) : base.voice n = Voice.reset := by revert n; decide

/-- A snapshot of the state after reset is accepted; one without its `voiceCount` is not. -/
theorem witness_RestoreAcceptsExactlyTheWellTypedSnapshots :
    AcceptedSnapshot (takeSnapshot base) ∧ ¬ AcceptedSnapshot { takeSnapshot base with voiceCount := none } := by
  have hv : AcceptedVoice (.ofVoice Voice.reset) :=
    ⟨0, 0, 0, 0, false, false, 0, List.replicate 32 0, by decide, by decide, by decide, by decide, by decide, accepted_zero_phase,
      by decide, by decide⟩
  have hn : AcceptedNoise (.ofVoice Voice.reset) := ⟨false, 0, by decide, by decide⟩
  refine ⟨⟨rfl, rfl, ?_, ?_, ⟨0, rfl, by decide, by decide⟩, ⟨0, rfl, by decide, by decide⟩, ⟨0, rfl, by decide, by decide⟩,
    ⟨0, rfl, by decide, by decide⟩⟩, fun h => by cases h.1⟩
  · intro n
    have h : (takeSnapshot base).voice[n.val] = .ofVoice Voice.reset := by revert n; decide
    rw [h]; exact hv
  · intro n
    have h : (takeSnapshot base).noise[n.val] = .ofVoice Voice.reset := by revert n; decide
    rw [h]; exact hn

/-- The clauses about the step of an idle core whose oldest call is `restore`. -/
theorem witness_RestoreAcceptsExactlyTheWellTypedSnapshots_step :
    (called (.restore (takeSnapshot base))).cfg.wf = true ∧ (called (.restore (takeSnapshot base))).activity = .idle ∧
      (called (.restore (takeSnapshot base))).calls = ⟨.restore (takeSnapshot base), none⟩ :: [] := by decide

theorem witness_SnapshotRestoresTheMixedVoices :
    ∀ n : VoiceIndex, n.val < 6 → AcceptedPhase (sounding.voice n).phase := by
  have h : ∀ n, (sounding.voice n).phase = 0 := by decide
  exact fun n _ => by rw [h n]; exact accepted_zero_phase

theorem witness_SnapshotRestoresTheMixedVoices_step :
    (called (.restore (takeSnapshot sounding))).cfg.wf = true ∧ (called (.restore (takeSnapshot sounding))).activity = .idle ∧
      (called (.restore (takeSnapshot sounding))).calls = ⟨.restore (takeSnapshot sounding), none⟩ :: [] := by decide

theorem witness_RestoredCoreSoundsTheSame :
    (∀ n : VoiceIndex, n.val < 6 → AcceptedPhase (sounding.voice n).phase) ∧ sounding.queue = [] ∧ base.cfg = sounding.cfg ∧
      base.host = sounding.host ∧
      (∀ n : VoiceIndex, n.val < 4 → (sounding.voice n).noiseChannel = false ∧ (base.voice n).noiseChannel = false) ∧
      (sounding.voice 6).dda = (base.voice 6).dda ∧ (sounding.voice 7).dda = (base.voice 7).dda :=
  ⟨witness_SnapshotRestoresTheMixedVoices, by decide, by decide, by decide, by decide, by decide, by decide⟩

/-- The calls of the two cores: a frame that latches voice 6 and rewrites its flags before it loads its table. -/
def frame : List HostCall :=
  ⟨.beginFrame 0, none⟩ :: [⟨.writeRegister 0 6 3, none⟩, ⟨.writeRegister 4 0 3, none⟩, ⟨.writeRegister 6 9 3, none⟩] ++
    ⟨.endFrame 100, none⟩ :: [⟨.getSamples [1, 2], none⟩]

/-- A core in direct-audio mode on voice 6: its flags are not those of `base`. -/
def otherFlag : State := base.updateVoice 6 fun v => { v with dda := true }

theorem base_phases : ∀ n : VoiceIndex, n.val < 6 → AcceptedPhase (base.voice n).phase := fun n _ => by
  rw [base_voice n]; exact accepted_zero_phase

theorem witness_RestoredCorePlaysTheSameOutput :
    base.cfg.wf = true ∧ base.activity = .idle ∧ otherFlag.activity = .idle ∧ base.queue = [] ∧ otherFlag.cfg = base.cfg ∧
      otherFlag.host = base.host ∧ (∀ n : VoiceIndex, n.val < 6 → AcceptedPhase (base.voice n).phase) ∧
      (∀ n : VoiceIndex, n.val < 4 → (base.voice n).noiseChannel = false ∧ (otherFlag.voice n).noiseChannel = false) ∧
      ∀ call ∈ ([⟨.writeRegister 0 6 3, none⟩, ⟨.writeRegister 4 0 3, none⟩, ⟨.writeRegister 6 9 3, none⟩] : List HostCall),
        ∃ register value cycle, call = ⟨.writeRegister register value cycle, none⟩ :=
  ⟨by decide, rfl, rfl, rfl, rfl, rfl, base_phases, by decide, by simp⟩

/-- `UnmixedWaveAgrees`, computed. -/
def agrees (a b : State) : Bool :=
  match a.queue with
  | [] => true
  | cmd :: _ => !(a.activity != .idle && decide (6 ≤ a.g.voiceLatch.toNat) && cmd.r == 6) ||
      (a.voice a.latched).dda == (b.voice a.latched).dda

theorem agrees_sound {a b : State} (h : agrees a b = true) : UnmixedWaveAgrees a b := by
  rintro ⟨act, latch, cmd, rest, queue, reg⟩
  simpa [agrees, queue, act, latch, reg] using h

/-- The two runs after j steps of the one and j + 1 of the other agree. -/
def agreeAt (j : Nat) : Bool :=
  match Host.Core.run Sys2Proof.core j { base with calls := frame },
    Host.Core.run Sys2Proof.core (j + 1)
      { otherFlag with calls := ⟨.restore (takeSnapshot base), none⟩ :: frame, outbox := base.outbox } with
  | .next a, .next b => agrees a b
  | _, _ => false

/-- The premise on the flags: the same core restored, whose flags agree; and a core whose flags do not, where the one `WAVE` of the run
(its tenth step) comes after a `CTRL` to the same voice. -/
theorem witness_RestoredCorePlaysTheSameOutput_flags :
    ((base.voice 6).dda = (base.voice 6).dda ∧ (base.voice 7).dda = (base.voice 7).dda) ∧
      (base.voice 6).dda ≠ (otherFlag.voice 6).dda ∧
      ∀ j < 12, ∀ a b, Host.Core.run Sys2Proof.core j { base with calls := frame } = .next a →
        Host.Core.run Sys2Proof.core (j + 1)
          { otherFlag with calls := ⟨.restore (takeSnapshot base), none⟩ :: frame, outbox := base.outbox } = .next b →
        UnmixedWaveAgrees a b := by
  have all : ∀ j < 12, agreeAt j = true := by decide +kernel
  refine ⟨⟨rfl, rfl⟩, by decide, fun j hj a b ha hb => agrees_sound ?_⟩
  have h := all j hj
  simp only [agreeAt] at h
  rw [ha, hb] at h
  exact h

/-- The run does apply that `WAVE`: the shared cursor has moved after its tenth step. -/
theorem witness_RestoredCorePlaysTheSameOutput_wave :
    nextHas (Host.Core.run Sys2Proof.core 10 { base with calls := frame }) (·.g.waveWriteCursor == 1) = true := by decide +kernel

theorem witness_PositionsStayInTheSegment :
    ((4 : Nat) ≤ 8 ∧ 4 % 2 = 0 ∧ 8 % 2 = 0 ∧ positionBroken (rawPosition 63 8 100) 4 8 = false) ∧
      positionBroken (rawPosition 30 8 100) 4 8 = true ∧ ((8 : Nat) ≤ 8 ∧ (0 : Nat) ≤ 0) := by decide

theorem witness_PositionsOfAnOrderlyHost :
    (1 : Int) ≤ 100 ∧ (0 : Int) ≤ 0 ∧ (0 : Int) ≤ 50 ∧ (50 : Int) ≤ 100 ∧ (100 : Int) ≤ 100 ∧ 8 % 2 = 0 := by decide

theorem witness_SegmentMixesTheSixVoicesInAnyOrder :
    List.Perm [5, 1, 0, 3, 4, 2] ([0, 1, 2, 3, 4, 5] : List VoiceIndex) ∧ 6 ≤ (6 : VoiceIndex).val ∧ 6 ≤ (7 : VoiceIndex).val := by
  decide

theorem witness_SkippedVoiceIsFrozen :
    ({ sounding with host := { sounding.host with mute := sounding.host.mute.set 0 true } } : State).host.mute[0] = true ∧
      (base.voice 5).enabled = false ∧
      ((sounding.updateVoice 0 fun v => { v with volume := 0 }).voice 0).dda = false ∧
      ((sounding.updateVoice 0 fun v => { v with volume := 0 }).voice 0).volume.toNat = 0 := by decide

theorem witness_PlaybackFrequencyOfEachMode :
    ({ Voice.reset with noiseChannel := true } : Voice).noiseChannel = true ∧
      (Voice.reset.noiseChannel = false ∧ ({ Voice.reset with dda := true } : Voice).dda = true) ∧
      (Voice.reset.dda = false ∧ 2 ≤ ({ Voice.reset with frequency := 2 } : Voice).frequency.toNat) ∧
      ((base.voice 0).noiseChannel = false ∧ (base.voice 0).dda = false ∧ (base.voice 0).frequency.toNat ≤ 1) ∧
      ({ Voice.reset with frequency := 1 } : Voice).frequency.toNat ≤ 1 := by decide

theorem witness_MixingChangesOnlyPhasesAndTheSegment : (2 : Nat) ≤ 6 ∧ ((1 : Nat) < 2 ∨ 6 ≤ 1) ∧ ((6 : Nat) < 2 ∨ 6 ≤ 6) := by decide

theorem witness_MixingIsAdditive : (2 : VoiceIndex) ≠ 4 := by decide

theorem witness_ChannelLevelIsClampedAtZero : (sounding.voice 0).panning = (15 : BitVec 4) ++ (15 : BitVec 4) := by decide

theorem witness_FmodIsExact : f32Finite 0xC1EC0000 = true ∧ f32Finite (f32OfNat 8) = true ∧ f32Magnitude (f32OfNat 8) ≠ 0 := by
  decide +kernel

theorem witness_RoundingIsToNearestTiesToEven :
    0 < 2 ∧ roundMagnitude (2 ^ 25 + 3) 2 < 0x7F800000 ∧ roundMagnitude (2 ^ 25 + 3) 2 - 1 < 0x7F800000 := by decide +kernel

/-- The clauses about `f32_add` and `f32_div`: a sum that is not zero and two that are, a divisor of each kind, the infinities, a NaN. -/
theorem witness_RoundingIsToNearestTiesToEven_operations :
    (f32Finite 0x3F800000 = true ∧ f32Finite 0x34000000 = true ∧ f32Units 0x3F800000 + f32Units 0x34000000 ≠ 0 ∧
      f32Magnitude 0x34000000 ≠ 0) ∧
      (f32Finite 0xBF800000 = true ∧ f32Units 0x3F800000 + f32Units 0xBF800000 = 0) ∧
      (f32Finite 0x80000000 = true ∧ f32Units 0x80000000 + f32Units 0x80000000 = 0 ∧ f32Sign 0x80000000 = true ∧
        f32Magnitude 0x80000000 = 0 ∧ f32Magnitude 0x3F800000 ≠ 0) ∧
      (f32IsInf 0x7F800000 = true ∧ f32IsInf 0xFF800000 = true ∧ f32Sign 0x7F800000 ≠ f32Sign 0xFF800000) ∧
      f32IsNaN 0x7FC00000 = true := by decide +kernel

/-- Both sides of the overflow bound of `RoundsTo`, and a rounded value of each side. -/
theorem witness_RoundsTo :
    1 * ((2 ^ 25 - 1) * 2 ^ 252) ≤ 2 ^ 128 * 2 ^ 149 ∧ f32OfNat (2 ^ 128) = 0x7F800000 ∧
      16777217 * 2 ^ 149 < 1 * ((2 ^ 25 - 1) * 2 ^ 252) ∧ f32OfNat 16777217 = 0x4B800000 := by decide +kernel

theorem witness_PhaseStaysInsideTheWaveform :
    AcceptedPhase 0x41EC0000 ∧ AcceptedPhase 0x3EA25A9B ∧ f32Magnitude 0x3EA25A9B ≤ 2 ^ 220 ∧ 1 ≤ 1 ∧ 2 ^ 24 ≤ 2 ^ 24 :=
  ⟨⟨by decide, .inl (by decide)⟩, ⟨by decide, .inl (by decide)⟩, by decide +kernel, by decide, by decide⟩

theorem witness_DirectAudioVoiceHoldsItsSample :
    sounding.cfg.wf = true ∧ voiceSkipped (sounding.updateVoice 0 fun v => { v with dda := true }) 0 = false ∧
      ((sounding.updateVoice 0 fun v => { v with dda := true }).voice 0).dda = true ∧
      ((sounding.updateVoice 0 fun v => { v with dda := true }).voice 0).noiseChannel = false ∧
      AcceptedPhase ((sounding.updateVoice 0 fun v => { v with dda := true }).voice 0).phase ∧
      f32Magnitude ((sounding.updateVoice 0 fun v => { v with dda := true }).voice 0).phase < 32 * 2 ^ 149 ∧
      (2 : Nat) ≤ 6 ∧ (6 - 2) % 2 = 0 ∧ 6 ≤ (List.replicate 8 (0 : Sample)).length :=
  ⟨by decide, by decide, by decide, by decide, accepted_zero_phase, by decide +kernel, by decide, by decide, by decide⟩

/-- A sounding voice 4 in each mode. -/
def speaking (dda noise : Bool) : State :=
  base.updateVoice 4 fun v => { v with
    frequency := 0x100, volume := 31, enabled := true, dda := dda, noiseChannel := noise, noiseFrequency := 1804, ddaValue := 7 }

/-- The phases before the pairs exist, whatever the voice. -/
theorem phases_exist (start wl rate : F32) :
    ∃ phase : Nat → F32, phase 0 = start ∧ ∀ k, phase (k + 1) = f32Fmod (f32Add (f32Fmod (phase k) wl) rate) wl :=
  ⟨fun k => Nat.rec start (fun _ p => f32Fmod (f32Add (f32Fmod p wl) rate) wl) k, rfl, fun _ => rfl⟩

/-- A voice of each mode meets the premises: tone, direct-audio, noise, and direct-audio with noise on. -/
theorem witness_SoundingVoiceReadsItsWaveform :
    ∀ dda noise : Bool, voiceSkipped (speaking dda noise) 4 = false ∧ ((speaking dda noise).voice 4).noiseChannel = noise ∧
      ((speaking dda noise).voice 4).dda = dda ∧ ((speaking dda noise).voice 4).noiseFrequency = 1804 ∧
      2 ≤ ((speaking dda noise).voice 4).frequency.toNat ∧
      437 = (speaking dda noise).cfg.mclk / (32 * ((speaking dda noise).voice 4).frequency.toNat) ∧
      (speaking dda noise).cfg.noise.length = 8 ∧ ((speaking dda noise).voice 4).phase = 0 := by decide

/-- The entry that the first pair reads, of the noise table (length 8) and of the wavetable; a buffer and a segment. -/
theorem witness_SoundingVoiceReadsItsWaveform_pair :
    f32Fmod 0 (f32OfNat 8) = 0 ∧ f32Fmod 0 (f32OfNat 32) = 0 ∧ f32Exponent 0 ≠ 255 ∧ (0 : F32).getLsbD 31 = false ∧
      testCfg.noise[f32Magnitude 0 / 2 ^ 149]? = some 0x7FFF ∧
      ((speaking false false).voice 4).wave[f32Magnitude 0 / 2 ^ 149]? = some 0 ∧
      (2 : Nat) ≤ 6 ∧ (6 - 2) % 2 = 0 ∧ 6 ≤ (List.replicate 8 (0 : Sample)).length ∧ 1 < (6 - 2) / 2 := by decide +kernel

theorem witness_ResetCallGivesTheResetState :
    ({ sounding with calls := [⟨.reset, none⟩] } : State).cfg.wf = true ∧ sounding.activity = .idle := by decide

theorem base_safe : SafeState base := ⟨by decide, trivial⟩

theorem called_safe (op : HostOp) : SafeState (called op) := ⟨base_safe.1, trivial⟩

/-- A safe state whose step begins a `getSamples`, and one inside it. -/
theorem witness_EveryStepKeepsTheSafeState :
    SafeState (called (.getSamples [1, 2])) ∧ (∃ t, step (called (.getSamples [1, 2])) = .next t) ∧
      SafeState { base with activity := .mixing 1 2 [1, 2] } :=
  ⟨called_safe _, ⟨_, rfl⟩, base_safe.1, by decide⟩

/-- A flagged state takes a step that is no reset, and one that is. -/
theorem witness_ViolationFlagIsSticky :
    (∃ t, step (violation .positionOutOfRange (called (.endFrame 3))) = .next t) ∧
      (violation .positionOutOfRange (called (.endFrame 3))).g.contractViolation = true ∧
      ∃ t, step (violation .positionOutOfRange (called .reset)) = .next t ∧ t.g.contractViolation = false :=
  ⟨⟨_, rfl⟩, rfl, _, rfl, rfl⟩

theorem witness_ConfigurationIsNeverWritten : ∃ t, step (called .snapshot) = .next t := ⟨_, rfl⟩

/-- Two different states that agree on what the output can depend on, and both outcomes of their step. -/
theorem witness_OutputIgnoresTheInaudibleState :
    SameAudible (called (.endFrame 3)) (violation .positionOutOfRange ((called (.endFrame 3)).setVoice 6 { Voice.reset with volume := 9 })) ∧
      (∃ t, step (called (.endFrame 3)) = .next t) ∧
      SameAudible (called (.setAmp 40000)) (called (.setAmp 40000)) ∧ step (called (.setAmp 40000)) = .refused (.ampOutOfRange 40000) :=
  ⟨⟨by decide, by decide, by decide, by decide, by decide, by decide⟩, ⟨_, rfl⟩,
    ⟨by decide, by decide, by decide, by decide, by decide, by decide⟩, rfl⟩

/-- Two states that differ in all of voice 6, with a step that applies no `WAVE` there, and one that does under equal flags. -/
theorem witness_OutputIgnoresTheInaudibleState_mixed :
    SameMixed { latching 6 with activity := .draining 0, queue := [⟨2, 3, 0⟩] }
        { (latching 6).setVoice 6 { Voice.reset with dda := true, volume := 9 } with activity := .draining 0, queue := [⟨2, 3, 0⟩] } ∧
      UnmixedWaveAgrees { latching 6 with activity := .draining 0, queue := [⟨2, 3, 0⟩] }
        { (latching 6).setVoice 6 { Voice.reset with dda := true, volume := 9 } with activity := .draining 0, queue := [⟨2, 3, 0⟩] } ∧
      SameMixed { latching 6 with activity := .draining 0, queue := [⟨6, 3, 0⟩] }
        { (latching 6).setVoice 6 { Voice.reset with volume := 9 } with activity := .draining 0, queue := [⟨6, 3, 0⟩] } ∧
      AppliesUnmixedWave { latching 6 with activity := .draining 0, queue := [⟨6, 3, 0⟩] } ∧
      UnmixedWaveAgrees { latching 6 with activity := .draining 0, queue := [⟨6, 3, 0⟩] }
        { (latching 6).setVoice 6 { Voice.reset with volume := 9 } with activity := .draining 0, queue := [⟨6, 3, 0⟩] } :=
  ⟨⟨by decide, by decide, by decide, by decide⟩, fun h => absurd h.2.2 (by simp), ⟨by decide, by decide, by decide, by decide⟩,
    ⟨by simp, by decide, _, _, rfl, rfl⟩, fun _ => by decide⟩

theorem witness_UnmixedDirectAudioFlagReachesTheCursor :
    (latching 6).latched = 6 ∧ ((latching 6).voice 6).dda = false := by decide

/-- The clause about a restored core. -/
theorem witness_UnmixedDirectAudioFlagReachesTheCursor_restored :
    (∀ n : VoiceIndex, n.val < 6 → AcceptedPhase (((latching 6).updateVoice 6 fun v => { v with dda := true }).voice n).phase) ∧
      ((latching 6).updateVoice 6 fun v => { v with dda := true }).latched = 6 ∧
      (((latching 6).updateVoice 6 fun v => { v with dda := true }).voice 6).dda = true ∧ (base.voice 6).dda = false := by
  have h : ∀ n, (((latching 6).updateVoice 6 fun v => { v with dda := true }).voice n).phase = 0 := by decide
  exact ⟨fun n _ => by rw [h n]; exact accepted_zero_phase, by decide, by decide, by decide⟩

end Sys2Proof.Tests
end

