-- ==== Sys2Proof/Proofs/Memory.lean ====
section
/-!
PROOFS. The wavetable write of 20_memory.md rule R52: its law and frame, and which register writes reach a wavetable.
-/

namespace Sys2Proof.Machine

/-! ### Writing one voice: the frame -/

theorem sameButVoice_updateVoice (s : State) (n : VoiceIndex) (f : Voice → Voice) :
    SameButVoice n s (s.updateVoice n f) :=
  ⟨s.setVoice_eq n _, fun _ h => s.voice_updateVoice_ne f h⟩

/-- An update of a voice that keeps its wavetable keeps the wavetable of every voice. -/
theorem State.wave_updateVoice (s : State) (n : VoiceIndex) {f : Voice → Voice} (keeps : ∀ v, (f v).wave = v.wave)
    (m : VoiceIndex) : ((s.updateVoice n f).voice m).wave = (s.voice m).wave := by
  rw [s.voice_updateVoice]
  split
  · next same => rw [same, keeps]
  · rfl

/-! ### `WaveWrite` (R52) -/

theorem State.voice_waveWrite_same (s : State) (n : VoiceIndex) (i : BitVec 5) (x : Sample) :
    (s.waveWrite n i x).voice n = { s.voice n with wave := (s.voice n).wave.set i.toNat x i.isLt } :=
  s.voice_updateVoice_same n _

theorem State.waveRead_waveWrite_same (s : State) (n : VoiceIndex) (i : BitVec 5) (x : Sample) :
    ((s.waveWrite n i x).voice n).waveRead i.toNat = x := by
  rw [s.voice_waveWrite_same, Voice.waveRead_set_same]

theorem State.waveRead_waveWrite_ne (s : State) (n : VoiceIndex) (i : BitVec 5) (x : Sample) {k : Nat} (h : k ≠ i.toNat) :
    ((s.waveWrite n i x).voice n).waveRead k = (s.voice n).waveRead k := by
  rw [s.voice_waveWrite_same, Voice.waveRead_set_ne _ _ _ h]

/-- `WaveWrite` keeps every field of the voice but the wavetable. -/
theorem State.voice_waveWrite_fields (s : State) (n : VoiceIndex) (i : BitVec 5) (x : Sample) :
    (s.waveWrite n i x).voice n = { s.voice n with wave := ((s.waveWrite n i x).voice n).wave } := by
  rw [s.voice_waveWrite_same]

theorem sameButVoice_waveWrite (s : State) (n : VoiceIndex) (i : BitVec 5) (x : Sample) :
    SameButVoice n s (s.waveWrite n i x) :=
  sameButVoice_updateVoice s n _

/-! ### The register writes and the wavetables -/

/-- `WAVE` outside direct-audio mode (R137) issues the `WaveWrite` and advances the cursor. -/
theorem exec_wave_of_not_dda (u : BitVec 8) {s : State} (h : (s.voice s.latched).dda = false) :
    exec (.wave u) s = .next ((s.waveWrite s.latched s.g.waveWriteCursor (sampleOfCode u)).updateGlobals fun g =>
      { g with waveWriteCursor := g.waveWriteCursor + 1 }) := by
  simp [exec, execWave, h]

/-- The cursor is 5 bits wide, so it advances modulo 32. -/
theorem cursor_succ_toNat (c : BitVec 5) : (c + 1).toNat = (c.toNat + 1) % 32 := BitVec.toNat_add c 1

/-- Only register 6 writes a wavetable: the voice writes of the other commands set other fields. -/
theorem exec_keeps_wave (i : Instr) (s : State) (h : i.index ≠ 6) :
    ∃ t, exec i s = .next t ∧ ∀ n, (t.voice n).wave = (s.voice n).wave := by
  cases i with
  | wave u => exact absurd rfl h
  | ctrl en dda vol =>
    have kept := s.wave_updateVoice s.latched (f := fun v => { v with volume := vol, enabled := en, dda := dda }) fun _ => rfl
    refine ⟨_, rfl, fun n => ?_⟩
    split
    · exact (congrArg Voice.wave (State.voice_updateGlobals _ _ n)).trans (kept n)
    · exact kept n
  | frql flo => exact ⟨_, rfl, s.wave_updateVoice _ fun _ => rfl⟩
  | frqh fhi => exact ⟨_, rfl, s.wave_updateVoice _ fun _ => rfl⟩
  | pan panL panR => exact ⟨_, rfl, s.wave_updateVoice _ fun _ => rfl⟩
  | noise ne selector => exact ⟨_, rfl, s.wave_updateVoice _ fun _ => rfl⟩
  | lfoc halt ctl => exact ⟨_, rfl, s.wave_updateVoice _ fun _ => rfl⟩
  | sel latch => exact ⟨_, rfl, fun _ => rfl⟩
  | mvol left right => exact ⟨_, rfl, fun _ => rfl⟩
  | lfod => exact ⟨_, rfl, fun _ => rfl⟩
  | rsvd10 r => exact ⟨_, rfl, fun _ => rfl⟩
  | rsvd12 r => exact ⟨_, rfl, fun _ => rfl⟩

/-- Settles O22, from the laws of `WaveWrite`, the case split over the commands, and the equation of `WAVE`. -/
theorem waveWriteChangesOneEntry : Obligations.WaveWriteChangesOneEntry := by
  unfold Obligations.WaveWriteChangesOneEntry
  refine ⟨fun s n i x => ?_, exec_keeps_wave, fun u s h => ?_⟩
  · exact ⟨s.waveRead_waveWrite_same n i x, fun _ hk => s.waveRead_waveWrite_ne n i x hk,
      s.voice_waveWrite_fields n i x, sameButVoice_waveWrite s n i x⟩
  · exact ⟨_, exec_wave_of_not_dda u h, State.voices_updateGlobals _ _, cursor_succ_toNat _⟩

end Sys2Proof.Machine
end

