-- ==== Sys2Proof/Proofs/Encoding.lean ====
section
/-!
PROOFS. The opcode map of 30_encoding.md rule R74: the register index alone chooses the row, so that the map is a fact about the
16 indices, whatever the value byte.
-/

namespace Sys2Proof.Machine

/-- A command word is its register index before its value byte (R70). -/
theorem index_append_value (cw : CommandWord) : CommandWord.index cw ++ CommandWord.value cw = cw :=
  (BitVec.extractLsb'_append_extractLsb'_eq_extractLsb' (x := cw) (start₁ := 0) (len₁ := 8) (start₂ := 8) (len₂ := 4) rfl).trans
    BitVec.extractLsb'_eq_self

/-- The value byte does not choose the row of the decoded command. -/
theorem rowNumber_decodeCommand (r : BitVec 4) (v : BitVec 8) :
    (decodeCommand r v).rowNumber = (decodeCommand r 0).rowNumber := by
  unfold decodeCommand
  split <;> rfl

/-- Every mask of the opcode map covers bits of the register index only. -/
theorem mask_eq_index_mask (k : Fin 12) :
    (opcodeRows.get k).mask = (opcodeRows.get k).mask.extractLsb' 8 4 ++ 0#8 := by
  revert k
  decide

/-- The value byte of a word does not matter to a row of the opcode map. -/
theorem row_holds_append (k : Fin 12) (r : BitVec 4) (v : BitVec 8) :
    (opcodeRows.get k).holds (r ++ v) = (opcodeRows.get k).holds (r ++ 0#8) := by
  unfold OpcodeRow.holds
  rw [mask_eq_index_mask k, Laws.EncodeRow.index_fixes_row, Laws.EncodeRow.index_fixes_row]

/-- The 16 register indices against the 12 rows. -/
theorem row_holds_index_iff : ∀ (r : BitVec 4) (k : Fin 12),
    (opcodeRows.get k).holds (r ++ 0#8) = true ↔ k = (decodeCommand r 0).rowNumber := by
  decide

/-- A word lies in exactly the row of the command that it decodes to (R74). -/
theorem row_holds_iff (cw : CommandWord) (k : Fin 12) :
    (opcodeRows.get k).holds cw = true ↔ k = (decode cw).rowNumber := by
  have word : (opcodeRows.get k).holds cw = (opcodeRows.get k).holds (CommandWord.index cw ++ 0#8) := by
    rw [← row_holds_append k _ (CommandWord.value cw), index_append_value]
  rw [word, row_holds_index_iff, decode, rowNumber_decodeCommand _ (CommandWord.value cw)]

/-- Settles O2: the rows are R74's as written, and the index of a word chooses its row as it chooses its command. -/
theorem everyCommandWordHasOneRow : Obligations.EveryCommandWordHasOneRow := by
  unfold Obligations.EveryCommandWordHasOneRow
  exact ⟨rfl, row_holds_iff⟩

end Sys2Proof.Machine
end

