-- ==== Sys2Proof/Proofs/FrameTiming.lean ====
section
/-!
PROOFS. The frame and time operations of 40_frame_timing.md: what `endFrame` records (R102).
-/

namespace Sys2Proof.Machine

/-- `endFrame(c)` answers at once and records `c` as `T.end` (R102). -/
theorem beginOp_endFrame (c : Int) (s : State) :
    beginOp (.endFrame c) s = .next { s with time := { s.time with last := c } } := rfl

/-- Settles O26: an idle core begins its oldest call, and `endFrame` writes `T.end` of the state that the call has left. -/
theorem endFrameWritesOnlyTheEnd : Obligations.EndFrameWritesOnlyTheEnd := by
  unfold Obligations.EndFrameWritesOnlyTheEnd
  intro s c rest wf idle call
  have begun := (step_idle_call wf idle call).trans (beginOp_endFrame c { s with calls := rest })
  exact ⟨_, begun, rfl, rfl⟩

end Sys2Proof.Machine
end

