-- ==== Sys2Proof/Proofs/RegisterDecoder.lean ====
section
/-!
PROOFS. The register decoder of 41_register_decoder.md: the effect and the frame of `SEL`, `MVOL`, `FRQL`, `FRQH`, `PAN`, `LFOD` and `RSVD`
(R131 to R134, R136, R139, R141).
-/

namespace Sys2Proof.Machine

/-! ### Fields as numbers -/

theorem byteField_toNat (v : BitVec 8) (hi lo : Nat) :
    (byteField v hi lo).toNat = v.toNat / 2 ^ lo % 2 ^ (hi - lo + 1) := by
  rw [byteField, BitVec.extractLsb_toNat, Nat.shiftRight_eq_div_pow]

theorem byteField_low_toNat (v : BitVec 8) (hi : Nat) : (byteField v hi 0).toNat = v.toNat % 2 ^ (hi + 1) := by
  rw [byteField_toNat, Nat.pow_zero, Nat.div_one, Nat.sub_zero]

theorem toNat_append_eq_add {m n : Nat} (x : BitVec m) (y : BitVec n) : (x ++ y).toNat = x.toNat * 2 ^ n + y.toNat := by
  rw [BitVec.toNat_append, ← Nat.shiftLeft_add_eq_or_of_lt y.isLt, Nat.shiftLeft_eq]

/-- A byte is its upper before its lower nibble, the fields of `MVOL` and `PAN`. -/
theorem nibbles_append (v : BitVec 8) : byteField v 7 4 ++ byteField v 3 0 = v :=
  BitVec.extractLsb'_append_extractLsb' (w := 4) (len := 4)

/-! ### The frequency as its upper four bits before its low byte -/

theorem frequency_split (f : BitVec 12) : ∃ (high : BitVec 4) (low : BitVec 8), f = high ++ low :=
  ⟨_, _, (BitVec.extractLsb'_append_extractLsb' (w := 4) (len := 8)).symm⟩

theorem frequencyWithLow_append (high : BitVec 4) (low flo : BitVec 8) :
    frequencyWithLow (high ++ low) flo = high ++ flo := by
  have mask : (0xF00 : BitVec 12) = BitVec.allOnes 4 ++ 0#8 := rfl
  have byte : flo.setWidth 12 = 0#4 ++ flo := BitVec.setWidth_eq_append (by decide)
  rw [frequencyWithLow, mask, byte, BitVec.and_append, BitVec.or_append, BitVec.and_allOnes, BitVec.and_zero,
    BitVec.or_zero, BitVec.zero_or]

theorem frequencyWithHigh_append (high fhi : BitVec 4) (low : BitVec 8) :
    frequencyWithHigh (high ++ low) fhi = fhi ++ low := by
  have mask : ((0x0FF : Nat) : BitVec 12) = 0#4 ++ BitVec.allOnes 8 := rfl
  have field : fhi.setWidth 12 <<< 8 = fhi ++ 0#8 := by
    have cut : (fhi.setWidth 12).extractLsb' 0 4 = fhi :=
      (BitVec.extractLsb'_setWidth_of_le (by decide)).trans BitVec.extractLsb'_eq_self
    exact (BitVec.shiftLeft_eq_concat_of_lt (by decide : 8 < 12)).trans (congrArg (· ++ 0#8) cut)
  rw [frequencyWithHigh, mask, field, BitVec.and_append, BitVec.or_append, BitVec.and_allOnes, BitVec.and_zero,
    BitVec.or_zero, BitVec.zero_or]

/-- `FRQL` keeps bits [11:8] and takes the byte in bits [7:0] (R133). -/
theorem frequencyWithLow_toNat (old : BitVec 12) (flo : BitVec 8) :
    (frequencyWithLow old flo).toNat = old.toNat / 256 * 256 + flo.toNat := by
  obtain ⟨high, low, rfl⟩ := frequency_split old
  rw [frequencyWithLow_append, toNat_append_eq_add, toNat_append_eq_add]
  omega

/-- `FRQH` takes its field in bits [11:8] and keeps bits [7:0] (R134). -/
theorem frequencyWithHigh_toNat (old : BitVec 12) (fhi : BitVec 4) :
    (frequencyWithHigh old fhi).toNat = fhi.toNat * 256 + old.toNat % 256 := by
  obtain ⟨high, low, rfl⟩ := frequency_split old
  rw [frequencyWithHigh_append, toNat_append_eq_add, toNat_append_eq_add]
  omega

/-- Writing both parts leaves nothing of the frequency before. -/
theorem frequencyWithHigh_frequencyWithLow (old : BitVec 12) (fhi : BitVec 4) (flo : BitVec 8) :
    frequencyWithHigh (frequencyWithLow old flo) fhi = fhi ++ flo := by
  obtain ⟨high, low, rfl⟩ := frequency_split old
  rw [frequencyWithLow_append, frequencyWithHigh_append]

/-! ### The commands as updates of the state -/

theorem exec_sel (latch : BitVec 3) (s : State) :
    exec (.sel latch) s = .next (s.updateGlobals fun g => { g with voiceLatch := latch }) := rfl

theorem exec_mvol (left right : BitVec 4) (s : State) :
    exec (.mvol left right) s =
      .next (s.updateGlobals fun g => { g with mainVolumeLeft := left, mainVolumeRight := right }) := rfl

theorem exec_frql (flo : BitVec 8) (s : State) :
    exec (.frql flo) s =
      .next (s.updateVoice s.latched fun v => { v with frequency := frequencyWithLow v.frequency flo }) := rfl

theorem exec_frqh (fhi : BitVec 4) (s : State) :
    exec (.frqh fhi) s =
      .next (s.updateVoice s.latched fun v => { v with frequency := frequencyWithHigh v.frequency fhi }) := rfl

theorem exec_pan (panL panR : BitVec 4) (s : State) :
    exec (.pan panL panR) s = .next (s.updateVoice s.latched fun v => { v with panning := panL ++ panR }) := rfl

theorem applyAll_cons {i : Instr} {s t : State} (h : exec i s = .next t) (rest : List Instr) :
    applyAll (i :: rest) s = applyAll rest t := by
  rw [applyAll, h]

/-- `FRQL` and then `FRQH`: the second finds the same latched voice, and the frequency that the first wrote. -/
theorem applyAll_frql_frqh (flo : BitVec 8) (fhi : BitVec 4) (s : State) :
    ∃ t, applyAll [.frql flo, .frqh fhi] s = .next t ∧ (t.voice s.latched).frequency = fhi ++ flo := by
  have both := (applyAll_cons (exec_frql flo s) _).trans (applyAll_cons (exec_frqh fhi _) [])
  refine ⟨_, both, ?_⟩
  rw [State.latched_updateVoice, State.voice_updateVoice_same, State.voice_updateVoice_same,
    frequencyWithHigh_frequencyWithLow]

/-- The reserved indices are those of the two `RSVD` rows, 10 and 11 and from 12 on (R141). -/
theorem decodeCommand_reserved (r : BitVec 4) (v : BitVec 8) (reserved : 10 ≤ r.toNat) :
    decodeCommand r v = .rsvd10 r ∨ decodeCommand r v = .rsvd12 r := by
  unfold decodeCommand
  split
  case h_11 | h_12 => exact .inl rfl
  case h_13 => exact .inr rfl
  all_goals omega

/-! ### The statements -/

/-- Settles O5: the latch is the low three bits of the byte, and `SEL` is one update of the global registers. -/
theorem selSetsTheVoiceLatch : Obligations.SelSetsTheVoiceLatch := by
  unfold Obligations.SelSetsTheVoiceLatch
  exact ⟨fun v => ⟨_, rfl, byteField_low_toNat v 2⟩, fun latch s => ⟨_, exec_sel latch s, rfl, rfl⟩⟩

/-- Settles O6: the selectors are the two nibbles of the byte, and `MVOL` is one update of the global registers. -/
theorem mvolSetsBothMasterSelectors : Obligations.MvolSetsBothMasterSelectors := by
  unfold Obligations.MvolSetsBothMasterSelectors
  refine ⟨fun v => ⟨_, _, rfl, ?_, byteField_low_toNat v 3⟩, fun left right s => ⟨_, exec_mvol left right s, rfl, rfl, rfl⟩⟩
  rw [byteField_toNat]
  omega

/-- Settles O7: `FRQL` is one update of the latched voice's frequency, whose parts `frequencyWithLow_toNat` gives. -/
theorem frqlWritesTheLowFrequencyByte : Obligations.FrqlWritesTheLowFrequencyByte := by
  unfold Obligations.FrqlWritesTheLowFrequencyByte
  refine ⟨fun v => rfl, fun flo s => ⟨_, exec_frql flo s, ?_, ?_, sameButVoice_updateVoice s _ _⟩⟩
  · rw [s.voice_updateVoice_same, frequencyWithLow_toNat]
  · rw [s.voice_updateVoice_same]

/-- Settles O8: `FRQH` is one update of the latched voice's frequency, whose parts `frequencyWithHigh_toNat` gives; the written-out
pair of bytes is an instance of `applyAll_frql_frqh`. -/
theorem frqhWritesTheHighFrequencyBits : Obligations.FrqhWritesTheHighFrequencyBits := by
  unfold Obligations.FrqhWritesTheHighFrequencyBits
  refine ⟨fun v => ⟨_, rfl, byteField_low_toNat v 3⟩,
    fun fhi s => ⟨_, exec_frqh fhi s, ?_, ?_, sameButVoice_updateVoice s _ _⟩, applyAll_frql_frqh 0xFF 0xF⟩
  · rw [s.voice_updateVoice_same, frequencyWithHigh_toNat]
  · rw [s.voice_updateVoice_same]

/-- Settles O10: `PAN` is one update of the latched voice's panning, and the two selectors of a byte put together are the byte. -/
theorem panWritesThePanningByte : Obligations.PanWritesThePanningByte := by
  unfold Obligations.PanWritesThePanningByte
  refine ⟨fun v s => ⟨_, exec_pan _ _ s, ?_⟩, fun panL panR s => ⟨_, exec_pan panL panR s, ?_, ?_, sameButVoice_updateVoice s _ _⟩⟩
  · rw [s.voice_updateVoice_same, nibbles_append]
  · rw [s.voice_updateVoice_same]
    exact toNat_append_eq_add panL panR
  · rw [s.voice_updateVoice_same]

/-- Settles O14: indices from 10 on decode to `RSVD`, and the arms of `LFOD` and `RSVD` answer the state they are given. -/
theorem lfodAndReservedChangeNothing : Obligations.LfodAndReservedChangeNothing := by
  unfold Obligations.LfodAndReservedChangeNothing
  exact ⟨fun _ => rfl, decodeCommand_reserved, fun _ _ => ⟨rfl, rfl, rfl⟩⟩

end Sys2Proof.Machine
end

