-- ==== Sys2Proof/Proofs/OscillatorMixer.lean ====
section
/-!
PROOFS. The mixer of 42_oscillator_mixer.md: what mixing one voice reads and adds, and that the order of the voices of a segment does not
matter (R160, R168).
-/

namespace Sys2Proof.Machine

/-! ### Contributions to a buffer -/

/-- The buffer with `d i` added to its element `i`, modulo 2^16 (R53, R168). -/
def addEach (d : Nat → Sample) (out : List Sample) : List Sample := out.mapIdx fun i x => x + d i

theorem addEach_zero (out : List Sample) : addEach (fun _ => 0) out = out := by
  refine List.ext_getElem? fun i => ?_
  simp [addEach]

theorem addEach_addEach (d e : Nat → Sample) (out : List Sample) :
    addEach e (addEach d out) = addEach (fun i => d i + e i) out := by
  simp only [addEach, List.mapIdx_mapIdx]
  congr 1
  funext i x
  exact BitVec.add_assoc x (d i) (e i)

/-- Contributions commute, since addition modulo 2^16 does (R160). -/
theorem addEach_comm (d e : Nat → Sample) (out : List Sample) :
    addEach e (addEach d out) = addEach d (addEach e out) := by
  simp only [addEach_addEach, BitVec.add_comm]

theorem outAdd_eq_addEach (out : List Sample) (i : Nat) (t : Sample) :
    outAdd out i t = addEach (fun k => if i = k then t else 0) out := by
  refine List.ext_getElem? fun k => ?_
  rw [outAdd, addEach, List.getElem?_modify, List.getElem?_mapIdx]
  congr 1
  funext x
  split
  · rfl
  · exact (BitVec.add_zero x).symm

theorem mixPair_adds (amp : BitVec 15) (gl gr : BitVec 8) (x : Sample) (i : Nat) :
    ∃ d, ∀ out, mixPair amp gl gr x i out = addEach d out :=
  ⟨_, fun out => by rw [mixPair, outAdd_eq_addEach, outAdd_eq_addEach, addEach_addEach]⟩

/-- The phase after the loop and what the loop adds to the buffer do not depend on the buffer. -/
theorem mixPairs_adds (c : Config) (v : Voice) (amp : BitVec 15) (wl rate : F32) (gl gr : BitVec 8) (k i : Nat) (phase : F32) :
    ∃ phase' d, ∀ out, mixPairs c v amp wl rate gl gr k i phase out = (phase', addEach d out) := by
  induction k generalizing i phase with
  | zero => exact ⟨phase, fun _ => 0, fun out => by rw [mixPairs, addEach_zero]⟩
  | succ k ih =>
    obtain ⟨d, first⟩ := mixPair_adds amp gl gr (voiceSample c v (f32Fmod phase wl)) i
    obtain ⟨phase', e, rest⟩ := ih (i + 2) (advancePhase wl rate (f32Fmod phase wl))
    exact ⟨phase', _, fun out => by rw [mixPairs, first, rest, addEach_addEach]⟩

/-! ### What mixing one voice reads and writes -/

/-- Two states agree on everything that mixing voice `n` reads: the voice, the configuration, the global registers and the host
settings. -/
structure AgreeFor (n : VoiceIndex) (s t : State) : Prop where
  cfg : t.cfg = s.cfg
  g : t.g = s.g
  host : t.host = s.host
  voice : t.voice n = s.voice n

theorem AgreeFor.refl (n : VoiceIndex) (s : State) : AgreeFor n s s := ⟨rfl, rfl, rfl, rfl⟩

theorem agreeFor_setVoice {n m : VoiceIndex} (h : n ≠ m) (s : State) (v : Voice) : AgreeFor n s (s.setVoice m v) :=
  ⟨rfl, rfl, rfl, s.voice_setVoice_ne v h⟩

theorem AgreeFor.voiceSkipped_eq {n : VoiceIndex} {s t : State} (h : AgreeFor n s t) : voiceSkipped t n = voiceSkipped s n := by
  rw [voiceSkipped, voiceSkipped, h.host, h.voice]

/-- Mixing voice `n` writes one voice register set `v` at `n` and adds `d` to the buffer; both are fixed by what it reads, so neither
another voice nor the buffer changes them. -/
theorem mixVoice_adds (n : VoiceIndex) (a b : Nat) (s : State) :
    ∃ v d, ∀ t, AgreeFor n s t → ∀ out, mixVoice n a b t out = (t.setVoice n v, addEach d out) := by
  have unchanged : ∀ t, AgreeFor n s t → ∀ out : List Sample, (t, out) = (t.setVoice n (s.voice n), addEach (fun _ => 0) out) :=
    fun t h out => by rw [addEach_zero, ← h.voice, t.setVoice_voice]
  cases skipped : voiceSkipped s n with
  | true =>
    refine ⟨_, _, fun t h out => Eq.trans ?_ (unchanged t h out)⟩
    rw [mixVoice, h.voiceSkipped_eq, skipped, if_pos rfl]
  | false =>
    cases freq : playbackFrequency s.cfg (s.voice n) with
    | none =>
      refine ⟨_, _, fun t h out => Eq.trans ?_ (unchanged t h out)⟩
      simp only [mixVoice, h.voiceSkipped_eq, skipped, h.cfg, h.voice, freq]
      rfl
    | some f =>
      obtain ⟨phase, d, loop⟩ := mixPairs_adds s.cfg (s.voice n) s.host.amp (f32OfNat (waveformLength s.cfg (s.voice n)))
        (phaseRate s.cfg f (waveformLength s.cfg (s.voice n))) (gainLeft s.cfg s.g (s.voice n)) (gainRight s.cfg s.g (s.voice n))
        ((b - a) / 2) a (s.voice n).phase
      refine ⟨{ s.voice n with phase := phase }, d, fun t h out => ?_⟩
      simp only [mixVoice, h.voiceSkipped_eq, skipped, h.cfg, h.g, h.host, h.voice, freq, loop]
      rfl

theorem State.setVoice_comm (s : State) {n m : VoiceIndex} (h : n ≠ m) (v w : Voice) :
    (s.setVoice n v).setVoice m w = (s.setVoice m w).setVoice n v := by
  have voices := Vector.set_comm v w (xs := s.voices) (hi := n.isLt) (hj := m.isLt) (Fin.val_ne_of_ne h)
  exact congrArg (fun vs => { s with voices := vs }) voices

/-- Mixing one voice and writing another commute. -/
theorem mixVoice_setVoice {n m : VoiceIndex} (h : n ≠ m) (a b : Nat) (s : State) (w : Voice) (out : List Sample) :
    mixVoice n a b (s.setVoice m w) out = ((mixVoice n a b s out).1.setVoice m w, (mixVoice n a b s out).2) := by
  obtain ⟨v, d, mixed⟩ := mixVoice_adds n a b s
  rw [mixed s (.refl n s), mixed _ (agreeFor_setVoice h s w), s.setVoice_comm h]

/-- The order of two voices does not matter (R160): neither reads what the other writes, and their contributions commute. -/
theorem mixVoice_comm (n m : VoiceIndex) (a b : Nat) (s : State) (out : List Sample) :
    mixVoice m a b (mixVoice n a b s out).1 (mixVoice n a b s out).2 =
      mixVoice n a b (mixVoice m a b s out).1 (mixVoice m a b s out).2 := by
  by_cases h : n = m
  · rw [h]
  · obtain ⟨v, d, first⟩ := mixVoice_adds n a b s
    obtain ⟨w, e, second⟩ := mixVoice_adds m a b s
    rw [first s (.refl n s), second s (.refl m s), second _ (agreeFor_setVoice (Ne.symm h) s v),
      first _ (agreeFor_setVoice h s w), s.setVoice_comm h, addEach_comm]

theorem mixVoice_empty (n : VoiceIndex) (a : Nat) (s : State) (out : List Sample) : mixVoice n a a s out = (s, out) := by
  unfold mixVoice
  split
  · rfl
  · split
    · rfl
    · simp only [Nat.sub_self, Nat.zero_div, mixPairs]
      exact congrArg (·, out) (s.setVoice_voice n)

/-! ### Mixing a list of voices -/

theorem mixVoices_cons (n : VoiceIndex) (ns : List VoiceIndex) (a b : Nat) (s : State) (out : List Sample) :
    mixVoices (n :: ns) a b s out = mixVoices ns a b (mixVoice n a b s out).1 (mixVoice n a b s out).2 := rfl

theorem mixVoices_perm {ns ms : List VoiceIndex} (h : ns.Perm ms) (a b : Nat) (s : State) (out : List Sample) :
    mixVoices ns a b s out = mixVoices ms a b s out :=
  h.foldl_eq' (fun n _ m _ mixed => mixVoice_comm n m a b mixed.1 mixed.2) (s, out)

/-- Writing a voice that the list leaves out commutes with mixing. -/
theorem mixVoices_setVoice {ns : List VoiceIndex} {m : VoiceIndex} (h : m ∉ ns) (a b : Nat) (s : State) (w : Voice)
    (out : List Sample) :
    mixVoices ns a b (s.setVoice m w) out = ((mixVoices ns a b s out).1.setVoice m w, (mixVoices ns a b s out).2) := by
  induction ns generalizing s out with
  | nil => rfl
  | cons n ns ih =>
    obtain ⟨head, tail⟩ := not_or.mp (mt List.mem_cons.mpr h)
    rw [mixVoices_cons, mixVoices_cons, mixVoice_setVoice (Ne.symm head), ih tail]

/-- A voice that the list leaves out is kept: writing back what it holds changes nothing before mixing, and so nothing after. -/
theorem mixVoices_voice {ns : List VoiceIndex} {m : VoiceIndex} (h : m ∉ ns) (a b : Nat) (s : State) (out : List Sample) :
    (mixVoices ns a b s out).1.voice m = s.voice m := by
  have written := mixVoices_setVoice h a b s (s.voice m) out
  rw [s.setVoice_voice] at written
  rw [written, State.voice_setVoice_same]

theorem mixVoices_empty (ns : List VoiceIndex) (a : Nat) (s : State) (out : List Sample) : mixVoices ns a a s out = (s, out) :=
  List.foldl_fixed' (fun n => mixVoice_empty n a s out) ns

theorem not_mem_mixedVoices : ∀ {m : VoiceIndex}, 6 ≤ m.val → m ∉ mixedVoices := by decide

/-- Settles O39: mixing is a fold of steps that commute, no step reads or writes a voice that the list leaves out, and an empty segment
has no pairs. -/
theorem segmentMixesTheSixVoicesInAnyOrder : Obligations.SegmentMixesTheSixVoicesInAnyOrder := by
  unfold Obligations.SegmentMixesTheSixVoicesInAnyOrder
  intro a b s out
  exact ⟨fun _ perm => mixVoices_perm perm a b s out,
    mixVoices_voice (not_mem_mixedVoices (by decide)) a b s out,
    mixVoices_voice (not_mem_mixedVoices (by decide)) a b s out,
    fun _ v unmixed => mixVoices_setVoice (not_mem_mixedVoices unmixed) a b s v out,
    mixVoices_empty mixedVoices a s out⟩

end Sys2Proof.Machine
end

