-- ==== Sys2Proof/Proofs/Serialization.lean ====
section
/-!
PROOFS. Snapshots (43_serialization.md): what the record of `snapshot` holds, and that `snapshot` writes nothing else (R200, R201).
-/

namespace Sys2Proof.Machine

/-- `snapshot` answers at once and hands the record over; it writes no other field (R200). -/
theorem beginOp_snapshot (s : State) :
    beginOp .snapshot s = .next { s with outbox := s.outbox ++ [.snapshot (takeSnapshot s)] } := rfl

/-- Taking a call from the host's list changes nothing that a snapshot reads. -/
theorem takeSnapshot_calls (s : State) (rest : List HostCall) : takeSnapshot { s with calls := rest } = takeSnapshot s := rfl

/-- Entry `n` of the record is the record of voice `n`, for each of the six mixed voices (R201). -/
theorem takeSnapshot_voice (s : State) (n : Fin 6) :
    (takeSnapshot s).voice[n.val] = .ofVoice (s.voice (n.castLE (by decide))) := by
  match n with
  | 0 | 1 | 2 | 3 | 4 | 5 => rfl

/-- The noise entries of the record are those of voices 4 and 5, in this order (R201). -/
theorem takeSnapshot_noise (s : State) :
    (takeSnapshot s).noise.toList = [.ofVoice (s.voice 4), .ofVoice (s.voice 5)] := rfl

/-- Settles O33: an idle core begins its oldest call, which `snapshot` completes by handing over the record of the state before it; the
record's entries are those of `takeSnapshot_voice` and `takeSnapshot_noise`, and its global fields are the registers themselves. -/
theorem snapshotReadsTheListedFields : Obligations.SnapshotReadsTheListedFields := by
  unfold Obligations.SnapshotReadsTheListedFields
  refine ⟨fun s rest wf idle call => ?_, fun s n v voice => ?_, fun s => ⟨takeSnapshot_noise s, rfl, rfl, rfl, rfl⟩⟩
  · rw [step_idle_call wf idle call, beginOp_snapshot, takeSnapshot_calls]
  · rw [takeSnapshot_voice, ← voice]
    rfl

end Sys2Proof.Machine
end

section
/-!
PROOFS. Decoder and encoder (30_encoding.md rules R70 to R74): a command is its register index and its value byte.
-/

namespace Sys2Proof.Machine

theorem index_append (r : BitVec 4) (v : BitVec 8) : CommandWord.index (r ++ v) = r :=
  (BitVec.extractLsb'_append_eq_left : (r ++ v).extractLsb' 8 4 = r)

theorem value_append (r : BitVec 4) (v : BitVec 8) : CommandWord.value (r ++ v) = v :=
  (BitVec.extractLsb'_append_eq_right : (r ++ v).extractLsb' 0 8 = v)

/-- A well-formed command is read back from its index and its value byte. -/
theorem decodeCommand_index_value {i : Instr} (wf : i.WellFormed) : decodeCommand i.index i.value = i := by
  cases i with
  | sel latch => revert latch; decide
  | mvol left right => revert left right; decide
  | frql flo => rfl
  | frqh fhi => revert fhi; decide
  | ctrl en dda vol => revert en dda vol; decide
  | pan panL panR => revert panL panR; decide
  | wave u => rfl
  | noise ne selector => revert ne selector; decide
  | lfod => rfl
  | lfoc halt ctl => revert halt ctl; decide
  | rsvd10 r => revert r; decide
  | rsvd12 r => revert r; decide

/-- A fact about every register index is a fact about each of the 16. -/
theorem forall_index {p : BitVec 4 → Prop} : (∀ r, p r) ↔ ∀ k : Fin 16, p (BitVec.ofFin k) :=
  ⟨fun h _ => h _, fun h r => h r.toFin⟩

theorem decodeCommand_wf (r : BitVec 4) (v : BitVec 8) : (decodeCommand r v).WellFormed := by
  revert r
  refine forall_index.mpr fun k => ?_
  fin_cases k <;> rfl

theorem index_decodeCommand (r : BitVec 4) (v : BitVec 8) : (decodeCommand r v).index = r := by
  revert r
  refine forall_index.mpr fun k => ?_
  fin_cases k <;> rfl

/-- The value byte of the decoded command is the byte with the bits that R72 does not list cleared. -/
theorem value_decodeCommand (r : BitVec 4) (v : BitVec 8) : (decodeCommand r v).value = v &&& listedBits r := by
  revert r
  refine forall_index.mpr fun k => ?_
  match k with
  | 2 | 6 => exact BitVec.and_allOnes.symm
  | 8 | 10 | 11 | 12 | 13 | 14 | 15 => exact BitVec.and_zero.symm
  | 0 | 1 | 3 | 4 | 5 | 7 | 9 => revert v; decide
  | ⟨_ + 16, bound⟩ => omega

/-- A command word of 12 bits is one of the table's words of 16. -/
theorem decodeTableWord_toNat (cw : CommandWord) : decodeTableWord 16 cw.toNat = some (decode cw) := by
  have fits : cw.toNat < 2 ^ 12 := cw.isLt
  have low : cw.toNat % 2 ^ 16 = cw.toNat := Nat.mod_eq_of_lt (by omega)
  rw [decodeTableWord, low, decodeNumber, if_pos fits, BitVec.ofNat_toNat, BitVec.setWidth_eq]

theorem decode_encode {i : Instr} (wf : i.WellFormed) : decode (encode i) = i := by
  rw [decode, encode, index_append, value_append, decodeCommand_index_value wf]

/-- Settles O1: the word is the index before the value byte, and each row's fields are read back from that byte. -/
theorem encodeThenDecodeIsTheCommand : Obligations.EncodeThenDecodeIsTheCommand := by
  unfold Obligations.EncodeThenDecodeIsTheCommand
  refine ⟨fun i wf => decode_encode wf, fun i wf => ?_, fun cw => decodeCommand_wf _ _⟩
  rw [decodeTableWord_toNat, decode_encode wf]

/-- Settles O3: a command is its index and its value byte, and its value byte is the byte's listed bits. -/
theorem onlyTheListedBitsAreDecoded : Obligations.OnlyTheListedBitsAreDecoded := by
  unfold Obligations.OnlyTheListedBitsAreDecoded
  intro r v w
  have rebuilt (x : BitVec 8) : decodeCommand r x = decodeCommand r (x &&& listedBits r) := by
    have read := decodeCommand_index_value (decodeCommand_wf r x)
    rw [index_decodeCommand, value_decodeCommand] at read
    exact read.symm
  constructor
  · intro same
    rw [← value_decodeCommand, ← value_decodeCommand, same]
  · intro same
    rw [rebuilt v, rebuilt w, same]

/-- Settles O4, by running the decoder on each word. -/
theorem writtenOutWordsDecode : Obligations.WrittenOutWordsDecode := by
  unfold Obligations.WrittenOutWordsDecode
  decide

end Sys2Proof.Machine
end

section
/-!
PROOFS. The register decoder (41_register_decoder.md rules R130 to R142): every command is one write of one voice followed by one write of
the global registers, so that what all commands keep is a fact about these two writes.
-/

namespace Sys2Proof.Machine

/-! ### A command as two writes -/

/-- The voice that a command writes: voice 1 under `LFOC` (R140), else the latched one. -/
def writtenVoice (i : Instr) (s : State) : VoiceIndex :=
  match i with
  | .lfoc _ _ => 1
  | _ => s.latched

/-- What a command applied in state `s` makes of the voice that it writes. -/
def voiceWrite (i : Instr) (s : State) : Voice → Voice :=
  match i with
  | .frql flo => fun v => { v with frequency := frequencyWithLow v.frequency flo }
  | .frqh fhi => fun v => { v with frequency := frequencyWithHigh v.frequency fhi }
  | .ctrl en dda vol => fun v => { v with volume := vol, enabled := en, dda := dda }
  | .pan panL panR => fun v => { v with panning := panL ++ panR }
  | .wave u =>
    if (s.voice s.latched).dda then fun v => { v with ddaValue := sampleOfCode u }
    else fun v => { v with wave := v.wave.set s.g.waveWriteCursor.toNat (sampleOfCode u) s.g.waveWriteCursor.isLt }
  | .noise ne selector => fun v =>
    { v with noiseChannel := noiseHonoured ne s.latched, noiseFrequency := noisePlaybackFrequency s.cfg selector }
  | .lfoc halt ctl => fun v => { v with enabled := !lfoEngaged halt ctl }
  | .sel _ | .mvol _ _ | .lfod | .rsvd10 _ | .rsvd12 _ => fun v => v

/-- What a command applied in state `s` makes of the global registers. -/
def globalWrite (i : Instr) (s : State) : Globals → Globals :=
  match i with
  | .sel latch => fun g => { g with voiceLatch := latch }
  | .mvol left right => fun g => { g with mainVolumeLeft := left, mainVolumeRight := right }
  | .ctrl en dda _ => if cursorResets en dda then fun g => { g with waveWriteCursor := 0 } else fun g => g
  | .wave _ => if (s.voice s.latched).dda then fun g => g else fun g => { g with waveWriteCursor := g.waveWriteCursor + 1 }
  | .frql _ | .frqh _ | .pan _ _ | .noise _ _ | .lfoc _ _ | .lfod | .rsvd10 _ | .rsvd12 _ => fun g => g

/-- The state after a command. -/
def written (i : Instr) (s : State) : State :=
  (s.updateVoice (writtenVoice i s) (voiceWrite i s)).updateGlobals (globalWrite i s)

/-- A command that keeps its voice leaves the voice file as it is. -/
theorem State.updateVoice_self (s : State) (n : VoiceIndex) : s.updateVoice n (fun v => v) = s := s.setVoice_voice n

/-- Every command answers a next state, and that state is the two writes (R130). -/
theorem exec_eq_written (i : Instr) (s : State) : exec i s = .next (written i s) := by
  have kept : s.updateVoice s.latched (fun v => v) = s := s.updateVoice_self s.latched
  cases i with
  | ctrl en dda vol =>
    simp only [exec, execCtrl, written, globalWrite]
    split <;> rfl
  | wave u =>
    simp only [exec, execWave, written, globalWrite, voiceWrite]
    split <;> rfl
  | sel latch | mvol left right | lfod | rsvd10 r | rsvd12 r =>
    simp only [written, writtenVoice, voiceWrite, kept]
    rfl
  | frql flo | frqh fhi | pan panL panR | noise ne selector | lfoc halt ctl => rfl

theorem exec_next_iff {i : Instr} {s t : State} : exec i s = .next t ↔ t = written i s := by
  rw [exec_eq_written, Host.Outcome.next.injEq, eq_comm]

theorem written_voice_same (i : Instr) (s : State) :
    (written i s).voice (writtenVoice i s) = voiceWrite i s (s.voice (writtenVoice i s)) :=
  s.voice_updateVoice_same _ _

theorem written_voice_ne {i : Instr} {s : State} {n : VoiceIndex} (h : n ≠ writtenVoice i s) : (written i s).voice n = s.voice n :=
  s.voice_updateVoice_ne _ h

@[simp] theorem written_g (i : Instr) (s : State) : (written i s).g = globalWrite i s s.g := rfl

/-- What every command keeps of a voice, each voice keeps. -/
theorem written_voice_keeps {α : Type} {i : Instr} {s : State} {p : Voice → α} (keeps : ∀ v, p (voiceWrite i s v) = p v)
    (n : VoiceIndex) : p ((written i s).voice n) = p (s.voice n) := by
  by_cases h : n = writtenVoice i s
  · rw [h, written_voice_same, keeps]
  · rw [written_voice_ne h]

theorem voiceWrite_phase (i : Instr) (s : State) (v : Voice) : (voiceWrite i s v).phase = v.phase := by
  cases i with
  | wave u => simp only [voiceWrite]; split <;> rfl
  | _ => rfl

theorem globalWrite_contractViolation (i : Instr) (s : State) (g : Globals) :
    (globalWrite i s g).contractViolation = g.contractViolation := by
  cases i with
  | wave u => simp only [globalWrite]; split <;> rfl
  | ctrl en dda vol => simp only [globalWrite]; split <;> rfl
  | _ => rfl

/-- Settles O15: the two writes leave every other part of the state, and no voice write writes the phase, no global write the flag. -/
theorem registerWritesNeverTouchPhasesOrTiming : Obligations.RegisterWritesNeverTouchPhasesOrTiming := by
  unfold Obligations.RegisterWritesNeverTouchPhasesOrTiming
  exact fun i s => ⟨_, exec_eq_written i s, written_voice_keeps (voiceWrite_phase i s), rfl, rfl, rfl,
    globalWrite_contractViolation i s s.g, rfl, rfl, rfl, rfl⟩

/-- Settles O16: `LFOC` alone writes another voice than the latched one, voice 1. -/
theorem onlyTheLatchedVoiceIsWritten : Obligations.OnlyTheLatchedVoiceIsWritten := by
  unfold Obligations.OnlyTheLatchedVoiceIsWritten
  refine fun i s => ⟨_, exec_eq_written i s, fun n other lfoc => written_voice_ne ?_⟩
  cases i with
  | lfoc halt ctl => exact fun one => lfoc one rfl
  | _ => exact other

/-! ### Idempotence (R57) -/

theorem State.updateVoice_updateVoice (s : State) (n : VoiceIndex) (f h : Voice → Voice) :
    (s.updateVoice n f).updateVoice n h = s.updateVoice n (fun v => h (f v)) := by
  simp only [State.updateVoice, State.voice_setVoice_same, State.setVoice_setVoice]

theorem frequencyWithLow_idem (old : BitVec 12) (flo : BitVec 8) :
    frequencyWithLow (frequencyWithLow old flo) flo = frequencyWithLow old flo := by
  obtain ⟨high, low, rfl⟩ := frequency_split old
  rw [frequencyWithLow_append, frequencyWithLow_append]

theorem frequencyWithHigh_idem (old : BitVec 12) (fhi : BitVec 4) :
    frequencyWithHigh (frequencyWithHigh old fhi) fhi = frequencyWithHigh old fhi := by
  obtain ⟨high, low, rfl⟩ := frequency_split old
  rw [frequencyWithHigh_append, frequencyWithHigh_append]

/-- A command whose two writes are idempotent is idempotent. -/
theorem written_written {i : Instr} {s : State} (voice : writtenVoice i (written i s) = writtenVoice i s)
    (local_ : ∀ v, voiceWrite i (written i s) (voiceWrite i s v) = voiceWrite i s v)
    (global : globalWrite i (written i s) (globalWrite i s s.g) = globalWrite i s s.g) :
    written i (written i s) = written i s := by
  have twice := s.updateVoice_updateVoice (writtenVoice i s) (voiceWrite i s) (voiceWrite i (written i s))
  simp only [local_] at twice
  calc written i (written i s)
      = ((s.updateVoice (writtenVoice i s) (voiceWrite i s)).updateVoice (writtenVoice i s)
          (voiceWrite i (written i s))).updateGlobals fun _ => globalWrite i (written i s) (globalWrite i s s.g) := by
        rw [written, voice]; rfl
    _ = written i s := by rw [twice, global]; rfl

/-- Settles O17: each command writes the same values again; in direct-audio mode `WAVE` does too. -/
theorem registerWritesButWaveAreIdempotent : Obligations.RegisterWritesButWaveAreIdempotent := by
  unfold Obligations.RegisterWritesButWaveAreIdempotent
  intro i s repeatable
  refine ⟨_, exec_eq_written i s, exec_next_iff.mpr (Eq.symm ?_)⟩
  cases i with
  | frql flo => exact written_written rfl (fun v => by simp only [voiceWrite, frequencyWithLow_idem]) rfl
  | frqh fhi => exact written_written rfl (fun v => by simp only [voiceWrite, frequencyWithHigh_idem]) rfl
  | ctrl en dda vol => cases en <;> cases dda <;> exact written_written rfl (fun v => rfl) rfl
  | wave u =>
    have direct : (s.voice s.latched).dda = true := repeatable.resolve_left fun other => other rfl
    have wave : written (.wave u) s = s.updateVoice s.latched fun v => { v with ddaValue := sampleOfCode u } := by
      simp only [written, voiceWrite, globalWrite, direct]
      rfl
    have direct' : ((written (.wave u) s).voice (written (.wave u) s).latched).dda = true := by
      rw [wave, State.latched_updateVoice, State.voice_updateVoice_same, direct]
    refine written_written (by rw [wave]; rfl) (fun v => ?_) ?_
    · simp only [voiceWrite, direct, direct', if_true]
    · simp only [globalWrite, direct, direct', if_true]
  | sel latch =>
    have sel (t : State) : written (.sel latch) t = t.updateGlobals fun g => { g with voiceLatch := latch } :=
      (exec_next_iff.mp (exec_sel latch t)).symm
    rw [sel, sel]
    rfl
  | mvol left right | pan panL panR | noise ne selector | lfoc halt ctl | lfod | rsvd10 r | rsvd12 r =>
    exact written_written rfl (fun v => rfl) rfl

/-! ### The wavetable and the shared cursor (R135, R137) -/

theorem SameButVoiceAndCursor.refl (n : VoiceIndex) (s : State) : SameButVoiceAndCursor n s s := ⟨rfl, fun _ _ => rfl⟩

theorem SameButVoiceAndCursor.trans {n : VoiceIndex} {s t u : State} (h : SameButVoiceAndCursor n s t)
    (h' : SameButVoiceAndCursor n t u) : SameButVoiceAndCursor n s u := by
  obtain ⟨rest, voices⟩ := h
  obtain ⟨rest', voices'⟩ := h'
  refine ⟨?_, fun m other => (voices' m other).trans (voices m other)⟩
  rw [rest', rest]

/-- One write of the latched voice, and one of the cursor. -/
theorem sameButVoiceAndCursor_update (s : State) (n : VoiceIndex) (f : Voice → Voice) (cursor : BitVec 5) :
    SameButVoiceAndCursor n s ((s.updateVoice n f).updateGlobals fun g => { g with waveWriteCursor := cursor }) :=
  ⟨rfl, fun _ other => s.voice_updateVoice_ne f other⟩

theorem SameButVoice.withCursor {n : VoiceIndex} {s t : State} (h : SameButVoice n s t) : SameButVoiceAndCursor n s t := by
  obtain ⟨rest, voices⟩ := h
  exact ⟨by rw [rest], voices⟩

/-- `WAVE` in direct-audio mode writes the held sample only (R137). -/
theorem exec_wave_of_dda (u : BitVec 8) {s : State} (h : (s.voice s.latched).dda = true) :
    exec (.wave u) s = .next (s.updateVoice s.latched fun v => { v with ddaValue := sampleOfCode u }) := by
  simp [exec, execWave, h]

/-- The state after `CTRL` (R135): three fields of the latched voice are written, and the cursor where the byte is disabled and DDA. -/
def afterCtrl (en dda : Bool) (vol : BitVec 5) (s : State) : State :=
  (s.updateVoice s.latched fun v => { v with volume := vol, enabled := en, dda := dda }).updateGlobals fun g =>
    { g with waveWriteCursor := if en = false ∧ dda = true then 0 else g.waveWriteCursor }

theorem exec_ctrl (en dda : Bool) (vol : BitVec 5) (s : State) : exec (.ctrl en dda vol) s = .next (afterCtrl en dda vol s) := by
  cases en <;> cases dda <;> rfl

theorem afterCtrl_voice (en dda : Bool) (vol : BitVec 5) (s : State) :
    (afterCtrl en dda vol s).voice s.latched = { s.voice s.latched with volume := vol, enabled := en, dda := dda } := by
  rw [afterCtrl, State.voice_updateGlobals, State.voice_updateVoice_same]

theorem afterCtrl_frame (en dda : Bool) (vol : BitVec 5) (s : State) :
    SameButVoiceAndCursor s.latched s (afterCtrl en dda vol s) :=
  sameButVoiceAndCursor_update s _ _ _

/-- `CTRL` writes no cursor but for the byte that is disabled and DDA. -/
theorem afterCtrl_frame_of_not_reset {en dda : Bool} (h : cursorResets en dda = false) (vol : BitVec 5) (s : State) :
    SameButVoice s.latched s (afterCtrl en dda vol s) := by
  refine ⟨?_, (afterCtrl_frame en dda vol s).2⟩
  match en, dda, h with
  | true, true, _ | true, false, _ | false, false, _ => rfl

theorem exec_noise (ne : Bool) (selector : BitVec 5) (s : State) :
    exec (.noise ne selector) s =
      .next (s.updateVoice s.latched fun v =>
        { v with noiseChannel := noiseHonoured ne s.latched, noiseFrequency := noisePlaybackFrequency s.cfg selector }) := rfl

theorem exec_lfoc (halt : Bool) (ctl : BitVec 2) (s : State) :
    exec (.lfoc halt ctl) s = .next (s.updateVoice 1 fun v => { v with enabled := !lfoEngaged halt ctl }) := rfl

/-- Settles O9: `CTRL` is one update of the latched voice and one of the cursor. -/
theorem ctrlWritesThreeFieldsAndMayResetTheCursor : Obligations.CtrlWritesThreeFieldsAndMayResetTheCursor := by
  unfold Obligations.CtrlWritesThreeFieldsAndMayResetTheCursor
  exact ⟨fun v => ⟨_, rfl, byteField_low_toNat v 4⟩, fun en dda vol s => ⟨_, exec_ctrl en dda vol s,
    afterCtrl_voice en dda vol s, rfl, afterCtrl_frame en dda vol s⟩⟩

/-- Settles O11: the two modes of `WAVE` are the two equations of the command. -/
theorem waveFillsTheTableOrTheDirectSample : Obligations.WaveFillsTheTableOrTheDirectSample := by
  unfold Obligations.WaveFillsTheTableOrTheDirectSample
  refine ⟨fun v => rfl, fun u => BitVec.toInt_ofInt _, fun u s => ?_⟩
  cases direct : (s.voice s.latched).dda with
  | false =>
    exact ⟨_, exec_wave_of_not_dda u direct, sameButVoiceAndCursor_update s _ _ _,
      fun _ => ⟨s.voice_waveWrite_fields _ _ _, cursor_succ_toNat _, s.waveRead_waveWrite_same _ _ _,
        fun k other => s.waveRead_waveWrite_ne _ _ _ other⟩, nofun⟩
  | true =>
    exact ⟨_, exec_wave_of_dda u direct, (sameButVoice_updateVoice s _ _).withCursor, nofun,
      fun _ => ⟨s.voice_updateVoice_same _ _, rfl⟩⟩

theorem noiseHonoured_eq_true_iff (ne : Bool) (n : VoiceIndex) : noiseHonoured ne n = true ↔ ne = true ∧ 4 ≤ n.val := by
  rw [noiseHonoured, Bool.and_eq_true, Nat.ble_eq]

/-- The fold of selector 31 (R138). -/
theorem foldSelector_eq_min (selector : BitVec 5) : foldSelector selector = min selector.toNat 30 := by
  have := selector.isLt
  unfold foldSelector
  split <;> omega

theorem noisePlaybackFrequency_eq (c : Config) (selector : BitVec 5) :
    noisePlaybackFrequency c selector = c.mclk / (64 * (31 - min selector.toNat 30)) := by
  rw [noisePlaybackFrequency, foldSelector_eq_min]

/-- Settles O12: `NOISE` is one update of the latched voice. -/
theorem noiseGatesTheFlagAndStoresTheFrequency : Obligations.NoiseGatesTheFlagAndStoresTheFrequency := by
  unfold Obligations.NoiseGatesTheFlagAndStoresTheFrequency
  refine ⟨fun v => ⟨_, rfl, byteField_low_toNat v 4⟩, fun ne selector s =>
    ⟨_, exec_noise ne selector s, ?_, ?_, ?_, sameButVoice_updateVoice s _ _⟩⟩
  · rw [s.voice_updateVoice_same]
    exact noiseHonoured_eq_true_iff ne s.latched
  · rw [s.voice_updateVoice_same]
    exact noisePlaybackFrequency_eq s.cfg selector
  · rw [s.voice_updateVoice_same]

theorem lfoEngaged_eq_true_iff (halt : Bool) (ctl : BitVec 2) : lfoEngaged halt ctl = true ↔ halt = false ∧ ctl.toNat ≠ 0 := by
  revert halt ctl
  decide

/-- Settles O13: `LFOC` is one update of voice 1. -/
theorem lfocForcesVoiceOne : Obligations.LfocForcesVoiceOne := by
  unfold Obligations.LfocForcesVoiceOne
  refine ⟨fun v => ⟨_, rfl, byteField_low_toNat v 1⟩, fun halt ctl s =>
    ⟨_, exec_lfoc halt ctl s, ?_, ?_, sameButVoice_updateVoice s _ _⟩⟩
  · rw [s.voice_updateVoice_same, ← lfoEngaged_eq_true_iff, Bool.not_eq_false']
  · rw [s.voice_updateVoice_same]

/-- What a run of `WAVE` writes of `codes` in table mode makes of `s`: the shape of the statement about such runs (R137, R246). -/
def WaveFilled (codes : List (BitVec 8)) (s t : State) : Prop :=
  SameButVoiceAndCursor s.latched s t ∧
  t.voice s.latched = { s.voice s.latched with wave := (t.voice s.latched).wave } ∧
  t.g.waveWriteCursor.toNat = (s.g.waveWriteCursor.toNat + codes.length) % 32 ∧
  (∀ (k : Nat) (h : k < codes.length), codes.length ≤ k + 32 →
    (t.voice s.latched).waveRead ((s.g.waveWriteCursor.toNat + k) % 32) = sampleOfCode codes[k]) ∧
  ∀ j < 32, (∀ k < codes.length, (s.g.waveWriteCursor.toNat + k) % 32 ≠ j) →
    (t.voice s.latched).waveRead j = (s.voice s.latched).waveRead j

theorem waveFilled_nil (s : State) : WaveFilled [] s s :=
  ⟨.refl _ s, rfl, (Nat.mod_eq_of_lt s.g.waveWriteCursor.isLt).symm, nofun, fun _ _ _ => rfl⟩

/-- One `WAVE` before a run: its entry stands unless the run comes round to it, 32 writes later. -/
theorem waveFilled_cons {u : BitVec 8} {codes : List (BitVec 8)} {s t : State}
    (run : WaveFilled codes ((s.waveWrite s.latched s.g.waveWriteCursor (sampleOfCode u)).updateGlobals fun g =>
      { g with waveWriteCursor := g.waveWriteCursor + 1 }) t) : WaveFilled (u :: codes) s t := by
  obtain ⟨frame, voice, cursor, entries, others⟩ := run
  have start : s.g.waveWriteCursor.toNat < 32 := s.g.waveWriteCursor.isLt
  have next : ∀ k, ((s.g.waveWriteCursor + 1).toNat + k) % 32 = (s.g.waveWriteCursor.toNat + (k + 1)) % 32 := fun k => by
    rw [cursor_succ_toNat]
    omega
  simp only [State.g_updateGlobals, State.g_waveWrite, next] at cursor entries others
  refine ⟨(sameButVoiceAndCursor_update s _ _ _).trans frame, ?_, cursor, ?_, fun j lt untouched => ?_⟩
  · exact voice.trans (congrArg (fun v => { v with wave := (t.voice s.latched).wave }) (s.voice_waveWrite_fields _ _ _))
  · intro k lt last
    cases k with
    | zero =>
      have kept := others s.g.waveWriteCursor.toNat start fun k lt => by simp only [List.length_cons] at last; omega
      rw [Nat.add_zero, Nat.mod_eq_of_lt start]
      exact kept.trans (s.waveRead_waveWrite_same _ _ _)
    | succ k =>
      simp only [List.length_cons] at lt last
      exact entries k (by omega) (by omega)
  · have elsewhere : j ≠ s.g.waveWriteCursor.toNat := fun same => by
      have first := untouched 0 (Nat.succ_pos _)
      omega
    exact (others j lt fun k hk => untouched (k + 1) (Nat.succ_lt_succ hk)).trans (s.waveRead_waveWrite_ne _ _ _ elsewhere)

/-- A run of `WAVE` writes in table mode, by induction on the codes. -/
theorem applyAll_wave (codes : List (BitVec 8)) {s : State} (table : (s.voice s.latched).dda = false) :
    ∃ t, applyAll (codes.map Instr.wave) s = .next t ∧ WaveFilled codes s t := by
  induction codes generalizing s with
  | nil => exact ⟨s, rfl, waveFilled_nil s⟩
  | cons u codes ih =>
    have first := exec_wave_of_not_dda u table
    have table' : ((s.waveWrite s.latched s.g.waveWriteCursor (sampleOfCode u)).voice s.latched).dda = false := by
      rw [s.voice_waveWrite_same]
      exact table
    obtain ⟨t, run, filled⟩ := ih (s := (s.waveWrite s.latched s.g.waveWriteCursor (sampleOfCode u)).updateGlobals fun g =>
      { g with waveWriteCursor := g.waveWriteCursor + 1 }) table'
    exact ⟨t, (applyAll_cons first _).trans run, waveFilled_cons filled⟩

/-- Settles O18, by induction on the codes. -/
theorem waveWritesFillTheTableFromTheCursor : Obligations.WaveWritesFillTheTableFromTheCursor := by
  unfold Obligations.WaveWritesFillTheTableFromTheCursor
  exact fun codes s table => applyAll_wave codes table

/-! ### Voice modes (R38, R142) -/

/-- A command other than `CTRL`, `NOISE` and `LFOC` writes no flag that the mode depends on. -/
theorem voiceWrite_mode {i : Instr} (ctrl : i.index ≠ 4) (noise : i.index ≠ 7) (lfoc : i.index ≠ 9) (s : State) (v : Voice) :
    (voiceWrite i s v).mode = v.mode := by
  cases i with
  | ctrl en dda vol => exact absurd rfl ctrl
  | noise ne selector => exact absurd rfl noise
  | lfoc halt ctl => exact absurd rfl lfoc
  | wave u => simp only [voiceWrite]; split <;> rfl
  | _ => rfl

theorem Voice.mode_eq (v : Voice) :
    v.mode = if v.enabled = false then .disabled else if v.noiseChannel then .noiseActive
      else if v.dda then .directAudioActive else .toneActive := by
  simp only [Voice.mode, Bool.not_eq_true']

/-- Settles O19: each of the three commands is one voice update, and the mode is read off the voice that it leaves. -/
theorem modesChangeOnlyByTheTable : Obligations.ModesChangeOnlyByTheTable := by
  unfold Obligations.ModesChangeOnlyByTheTable
  refine ⟨fun en dda vol s => ⟨_, exec_ctrl en dda vol s, ?_, fun n other => ?_⟩,
    fun ne selector s => ⟨_, exec_noise ne selector s, ?_, fun n other => ?_⟩,
    fun halt ctl s => ⟨_, exec_lfoc halt ctl s, ?_, fun n other => ?_⟩,
    fun i s ctrl noise lfoc => ⟨_, exec_eq_written i s, written_voice_keeps (voiceWrite_mode ctrl noise lfoc s)⟩⟩
  · rw [afterCtrl_voice, Voice.mode_eq]
  · rw [(afterCtrl_frame en dda vol s).2 n other]
  · rw [s.voice_updateVoice_same, Voice.mode_eq]
    simp only [noiseHonoured_eq_true_iff]
  · rw [s.voice_updateVoice_ne _ other]
  · rw [s.voice_updateVoice_same, Voice.mode_eq]
    simp only [Bool.not_eq_false', lfoEngaged_eq_true_iff]
  · rw [s.voice_updateVoice_ne _ other]

/-! ### Pseudo-instructions (R78) -/

theorem decodeCommand_control (vol : BitVec 5) :
    decodeCommand 4 (0x80 + vol.setWidth 8) = .ctrl true false vol ∧
      decodeCommand 4 (0xC0 + vol.setWidth 8) = .ctrl true true vol ∧
      decodeCommand 7 (0x80 + vol.setWidth 8) = .noise true vol := by
  revert vol
  decide

theorem expand_freq (f : BitVec 12) : expand (.freq f) = [.frql (f.extractLsb' 0 8), .frqh (f.extractLsb' 8 4)] := by
  have high (x : BitVec 4) : decodeCommand 3 (0#4 ++ x) = .frqh x := by revert x; decide
  rw [expand, high]
  rfl

theorem applyAll_single {i : Instr} {s t : State} (h : exec i s = .next t) : applyAll [i] s = .next t :=
  applyAll_cons h []

theorem applyAll_freq (f : BitVec 12) (s : State) :
    applyAll (expand (.freq f)) s = .next (s.updateVoice s.latched fun v => { v with frequency := f }) := by
  have parts : f.extractLsb' 8 4 ++ f.extractLsb' 0 8 = f := BitVec.extractLsb'_append_extractLsb'
  rw [expand_freq, applyAll_cons (exec_frql _ s), applyAll_single (exec_frqh _ _), State.latched_updateVoice,
    State.updateVoice_updateVoice]
  simp only [frequencyWithHigh_frequencyWithLow, parts]

/-- Settles O20: each expansion is decoded into its commands, and these are updates of the latched voice and the cursor. -/
theorem pseudoInstructionsSetTheirRegisters : Obligations.PseudoInstructionsSetTheirRegisters := by
  unfold Obligations.PseudoInstructionsSetTheirRegisters
  have same (s : State) (f : Voice → Voice) : (s.updateVoice s.latched f).voice s.latched = f (s.voice s.latched) :=
    s.voice_updateVoice_same _ f
  have frame (s : State) (f : Voice → Voice) : SameButVoice s.latched s (s.updateVoice s.latched f) :=
    sameButVoice_updateVoice s _ f
  refine ⟨fun f s => ⟨_, applyAll_freq f s, same s _, frame s _⟩, fun vol s => ?_, fun vol s => ?_,
    fun s => ⟨_, applyAll_single (exec_ctrl false false 0 s), afterCtrl_voice false false 0 s,
      afterCtrl_frame_of_not_reset rfl 0 s⟩,
    fun s => ⟨_, applyAll_single (exec_ctrl false true 0 s), rfl, afterCtrl_voice false true 0 s,
      afterCtrl_frame false true 0 s⟩,
    fun selector s => ?_⟩
  · obtain ⟨noteOn, -, -⟩ := decodeCommand_control vol
    rw [expand, noteOn]
    exact ⟨_, applyAll_single (exec_ctrl true false vol s), afterCtrl_voice true false vol s,
      afterCtrl_frame_of_not_reset rfl vol s⟩
  · obtain ⟨-, ddaOn, -⟩ := decodeCommand_control vol
    rw [expand, ddaOn]
    exact ⟨_, applyAll_single (exec_ctrl true true vol s), afterCtrl_voice true true vol s,
      afterCtrl_frame_of_not_reset rfl vol s⟩
  · obtain ⟨-, -, noiseOn⟩ := decodeCommand_control selector
    have honoured : noiseHonoured true s.latched = decide (4 ≤ s.latched.val) :=
      Bool.eq_iff_iff.mpr ((noiseHonoured_eq_true_iff true _).trans (by simp))
    rw [expand, noiseOn]
    refine ⟨_, applyAll_single (exec_noise true selector s), ?_, frame s _⟩
    rw [same, honoured, noisePlaybackFrequency_eq]

/-- Settles O21: the two `CTRL` writes leave the cursor at 0 and the voice in table mode, and 32 `WAVE` writes fill the table once. -/
theorem waveLoadFillsTheWholeTable : Obligations.WaveLoadFillsTheWholeTable := by
  unfold Obligations.WaveLoadFillsTheWholeTable
  intro codes s
  have commands := (applyAll_cons (exec_ctrl false true 0 s) (.ctrl false false 0 :: codes.toList.map Instr.wave)).trans
    (applyAll_cons (exec_ctrl false false 0 (afterCtrl false true 0 s)) _)
  have left : (afterCtrl false false 0 (afterCtrl false true 0 s)).voice s.latched =
      { s.voice s.latched with volume := 0, enabled := false, dda := false } := by
    have second := afterCtrl_voice false false 0 (afterCtrl false true 0 s)
    exact second.trans (congrArg (fun v => { v with volume := 0, enabled := false, dda := false }) (afterCtrl_voice false true 0 s))
  obtain ⟨t, run, frame, voice, cursor, entries, -⟩ :=
    applyAll_wave codes.toList (s := afterCtrl false false 0 (afterCtrl false true 0 s)) (congrArg Voice.dda left)
  have start : (afterCtrl false false 0 (afterCtrl false true 0 s)).g.waveWriteCursor.toNat = 0 := rfl
  rw [start] at cursor entries
  refine ⟨t, commands.trans run, ?_, ?_, fun k lt => ?_, ?_⟩
  · exact BitVec.eq_of_toNat_eq (by rw [cursor, Vector.length_toList]; rfl)
  · exact ((afterCtrl_frame false true 0 s).trans (afterCtrl_frame false false 0 (afterCtrl false true 0 s))).trans frame
  · have entry := entries k (by rwa [Vector.length_toList]) (by rw [Vector.length_toList]; omega)
    rw [Nat.zero_add, Nat.mod_eq_of_lt lt, Vector.getElem_toList] at entry
    exact entry
  · exact voice.trans (congrArg (fun v => { v with wave := (t.voice s.latched).wave }) left)

end Sys2Proof.Machine
end

section
/-!
PROOFS. The host operations and the frame/timing controller (40_frame_timing.md rules R100 to R106, 60_exceptions.md section 1): what one call
does, the position map, and that the steps of `beginFrame` and of `getSamples` are the whole operations of R101 and R105.
-/

namespace Sys2Proof.Machine

/-! ### The violation flag -/

theorem violationIf_eq (broken : Bool) (kind : ViolationKind) (s : State) :
    violationIf broken kind s = { s with g := { s.g with contractViolation := broken || s.g.contractViolation } } := by
  cases broken <;> rfl

theorem positionBroken_eq_true_iff (p : Int) (start bufLen : Nat) :
    positionBroken p start bufLen = true ↔ p < start ∨ (bufLen : Int) < p := by
  simp [positionBroken]

/-- Settles O23: the steps of the two operations, with the clamp of R105 written out. -/
theorem stepAppliesTheOldestCommand : Obligations.StepAppliesTheOldestCommand := by
  unfold Obligations.StepAppliesTheOldestCommand
  constructor
  · rintro s c cmd rest i wf act queue rfl
    exact step_draining_command wf act queue
  · rintro s elapsed start out cmd rest i p position before mixed out' wf act queue rfl raw clamped flagged segment
    have violated : violationIf (positionBroken p start out.length) .positionOutOfRange { s with queue := rest } = before := by
      rw [flagged, violationIf, if_congr (positionBroken_eq_true_iff p start out.length) rfl rfl]
      rfl
    rw [step_mixing_command wf act queue, mixToCommand]
    change exec _ { (mixSegment start (clampPosition (rawPosition cmd.timeOffset out.length elapsed) start out.length) _ out).1
      with activity := _ } = _
    have position_eq : clampPosition (rawPosition cmd.timeOffset out.length elapsed) start out.length = position := by
      rw [clamped, raw]
      rfl
    have raw_eq : rawPosition cmd.timeOffset out.length elapsed = p := raw.symm
    rw [position_eq, raw_eq, violated, segment]

/-! ### Calls of one step -/

theorem registerIndex_toNat (register : Nat) : (registerIndex register).toNat = register % 16 := BitVec.toNat_ofNat register 4

theorem toNat_ofInt_of_fits {w : Nat} {x : Int} (low : 0 ≤ x) (high : x < 2 ^ w) : ((BitVec.ofInt w x).toNat : Int) = x := by
  rw [BitVec.toNat_ofInt, Int.toNat_of_nonneg (Int.emod_nonneg _ (by positivity)), Int.emod_eq_of_lt low (by exact_mod_cast high)]

/-- Settles O27: `writeRegister` is one push, or a refusal. -/
theorem writeRegisterOnlyQueues : Obligations.WriteRegisterOnlyQueues := by
  unfold Obligations.WriteRegisterOnlyQueues
  refine ⟨fun s register value c rest wf idle call low high => ?_, fun s register value c rest wf idle call outside => ?_,
    fun s out register value c rest wf idle call => step_idle_reentrant wf idle call⟩
  · have pushed : beginOp (.writeRegister register value c) { s with calls := rest } =
        .next { s with
          calls := rest
          queue := s.queue ++ [⟨registerIndex register, BitVec.ofInt 8 value, c - s.time.origin⟩] } :=
      if_pos ⟨low, high⟩
    exact ⟨_, _, (step_idle_call wf idle call).trans pushed, rfl, registerIndex_toNat register,
      toNat_ofInt_of_fits low (by omega), rfl⟩
  · exact (step_idle_call wf idle call).trans (if_neg (by omega))

/-- Settles O28: the step that begins the outer call refuses. -/
theorem callInsideGetSamplesIsRefused : Obligations.CallInsideGetSamplesIsRefused := by
  unfold Obligations.CallInsideGetSamplesIsRefused
  exact fun s out inner rest wf idle call => step_idle_reentrant wf idle call

theorem beginOp_discardSamples (s : State) : beginOp .discardSamples s = .next s := rfl

/-- Settles O29: `discardSamples` answers the state in which it is begun. -/
theorem discardSamplesKeepsTheQueue : Obligations.DiscardSamplesKeepsTheQueue := by
  unfold Obligations.DiscardSamplesKeepsTheQueue
  exact fun s rest wf idle call => (step_idle_call wf idle call).trans (beginOp_discardSamples _)

theorem clampElapsed_eq_max (e : Int) : clampElapsed e = max 1 e := by
  unfold clampElapsed
  split <;> omega

theorem beginSamples_even {out : List Sample} (even : out.length % 2 = 0) (s : State) :
    beginSamples out s = .next { s with
      g := { s.g with contractViolation := decide (s.time.last - s.time.origin ≤ 0) || s.g.contractViolation }
      activity := .mixing (clampElapsed (s.time.last - s.time.origin)) 0 out } := by
  rw [beginSamples, if_neg (by omega)]
  simp only [violationIf_eq]

/-- Settles O30: the two branches of the start of `getSamples`. -/
theorem getSamplesBeginsWithThePositiveElapsed : Obligations.GetSamplesBeginsWithThePositiveElapsed := by
  unfold Obligations.GetSamplesBeginsWithThePositiveElapsed
  refine fun s out rest wf idle call => ⟨fun odd => ?_, fun even => ?_⟩
  · exact (step_idle_call wf idle call).trans (if_pos odd)
  · have flag : (decide (s.time.last - s.time.origin ≤ 0) || s.g.contractViolation) =
        (s.g.contractViolation || decide (s.time.last ≤ s.time.origin)) := by
      rw [Bool.or_comm, decide_eq_decide.mpr sub_nonpos]
    rw [step_idle_call wf idle call]
    refine (beginSamples_even even _).trans ?_
    rw [clampElapsed_eq_max, flag]

/-- Settles O31: the two host settings are one field each. -/
theorem hostSettingsAreSetOrRefused : Obligations.HostSettingsAreSetOrRefused := by
  unfold Obligations.HostSettingsAreSetOrRefused
  refine ⟨fun s n b rest wf idle call => ⟨_, step_idle_call wf idle call, rfl, fun m => ?_⟩,
    fun s a rest wf idle call => ⟨fun low high => ?_, fun outside => ?_⟩⟩
  · have position : n.val = m.val ↔ m = n := ⟨fun h => Fin.ext h.symm, fun h => congrArg Fin.val h.symm⟩
    exact (Vector.getElem_set n.isLt m.isLt).trans (if_congr position rfl rfl)
  · have begun := (step_idle_call wf idle call).trans (if_pos ⟨low, high⟩)
    exact ⟨_, begun, toNat_ofInt_of_fits low (by omega), rfl⟩
  · exact (step_idle_call wf idle call).trans (if_neg (by omega))

theorem Config.not_wf {c : Config} (h : c.mclk = 0 ∨ c.outputRate = 0 ∨ c.noise = []) : c.wf = false := by
  obtain h | h | h := h <;> simp [Config.wf, h]

theorem step_of_not_wf {s : State} (h : s.cfg.wf = false) : step s = .refused .badConfiguration := by
  rw [step, h]
  rfl

/-- Settles O32: the idle step without a call, and the check of the configuration that every step begins with. -/
theorem idleCoreWaitsAndBadConfigurationIsRefused : Obligations.IdleCoreWaitsAndBadConfigurationIsRefused := by
  unfold Obligations.IdleCoreWaitsAndBadConfigurationIsRefused
  exact ⟨fun s wf idle none => step_idle_wait wf idle none, fun s broken => step_of_not_wf (Config.not_wf broken)⟩

/-- Settles O51: `reset` answers the reset state with the configuration and the host's two lists. -/
theorem resetCallGivesTheResetState : Obligations.ResetCallGivesTheResetState := by
  unfold Obligations.ResetCallGivesTheResetState
  exact fun s rest wf idle call => step_idle_call wf idle call

/-! ### The state after reset (R240, R242) -/

theorem reset_voice (n : VoiceIndex) : State.reset.voice n = Voice.reset := Vector.getElem_replicate _

/-- Settles O50: the fields of the reset voice and of the reset state. -/
theorem resetStateIsTheResetTable : Obligations.ResetStateIsTheResetTable := by
  unfold Obligations.ResetStateIsTheResetTable
  refine ⟨fun n => ?_, rfl, rfl, rfl, rfl, rfl, rfl, rfl, rfl, rfl⟩
  rw [reset_voice]
  refine ⟨rfl, rfl, fun i lt => ?_, rfl, rfl, rfl, rfl, rfl, rfl, rfl, Vector.getElem_replicate _⟩
  rw [Voice.waveRead, dif_pos lt]
  exact Vector.getElem_replicate _

theorem mixVoice_of_skipped {n : VoiceIndex} {s : State} (skipped : voiceSkipped s n = true) (a b : Nat) (out : List Sample) :
    mixVoice n a b s out = (s, out) := by
  rw [mixVoice, skipped, if_pos rfl]

theorem mixVoices_of_skipped {s : State} (skipped : ∀ n, voiceSkipped s n = true) (ns : List VoiceIndex) (a b : Nat)
    (out : List Sample) : mixVoices ns a b s out = (s, out) :=
  List.foldl_fixed' (fun n => mixVoice_of_skipped (skipped n) a b out) ns

/-- After reset every voice is disabled, so every voice is skipped (R161). -/
theorem voiceSkipped_reset (n : VoiceIndex) : voiceSkipped State.reset n = true := by
  have disabled : (State.reset.voice n).enabled = false := congrArg Voice.enabled (reset_voice n)
  simp [voiceSkipped, disabled]

/-- Settles O52: a segment of skipped voices changes nothing. -/
theorem resetMixIsSilent : Obligations.ResetMixIsSilent := by
  unfold Obligations.ResetMixIsSilent
  exact fun a b out => mixVoices_of_skipped voiceSkipped_reset mixedVoices a b out

/-- Settles O53: no voice is a noise channel after reset, and no operation is in progress. -/
theorem resetStateIsSafe : Obligations.ResetStateIsSafe := by
  unfold Obligations.ResetStateIsSafe
  exact ⟨fun n _ => congrArg Voice.noiseChannel (reset_voice n), trivial⟩

/-! ### The position map (R105, R106) -/

theorem clampPosition_even {p : Int} {start bufLen : Nat} (position : p % 2 = 0) (cursor : start % 2 = 0) (buffer : bufLen % 2 = 0) :
    clampPosition p start bufLen % 2 = 0 := by
  simp only [clampPosition]
  omega

/-- Settles O37: the clamp keeps an even position between the even ends, and does nothing to one that is inside. -/
theorem positionsStayInTheSegment : Obligations.PositionsStayInTheSegment := by
  unfold Obligations.PositionsStayInTheSegment
  intro offset elapsed start bufLen ordered cursor buffer
  obtain ⟨low, high⟩ := clampPosition_bounds (rawPosition offset bufLen elapsed) ordered
  refine ⟨low, high, clampPosition_even (rawPosition_even _ _ _) cursor buffer, fun inside => ?_⟩
  have range := (positionBroken_eq_true_iff (rawPosition offset bufLen elapsed) start bufLen).not.mp (by simp [inside])
  simp only [clampPosition]
  omega

/-- The position is the greatest even index at or below the proportional one. -/
theorem le_rawPosition_iff {elapsed : Int} (pos : 0 < elapsed) (offset : Int) (bufLen : Nat) {x : Int} (even : x % 2 = 0) :
    x ≤ rawPosition offset bufLen elapsed ↔ x * elapsed ≤ offset * bufLen := by
  have floor : x ≤ Int.fdiv (offset * bufLen) elapsed ↔ x * elapsed ≤ offset * bufLen := by
    rw [Int.fdiv_eq_ediv_of_nonneg _ pos.le, Int.le_ediv_iff_mul_le pos]
  rw [← floor]
  simp only [rawPosition]
  omega

theorem rawPosition_mono {elapsed offset later : Int} (pos : 0 < elapsed) (le : offset ≤ later) (bufLen : Nat) :
    rawPosition offset bufLen elapsed ≤ rawPosition later bufLen elapsed := by
  have self := (le_rawPosition_iff pos offset bufLen (rawPosition_even offset bufLen elapsed)).mp le_rfl
  have grown : offset * bufLen ≤ later * bufLen := Int.mul_le_mul_of_nonneg_right le (Int.natCast_nonneg _)
  exact (le_rawPosition_iff pos later bufLen (rawPosition_even offset bufLen elapsed)).mpr (self.trans grown)

theorem rawPosition_zero (bufLen : Nat) (elapsed : Int) : rawPosition 0 bufLen elapsed = 0 := by
  simp [rawPosition]

theorem rawPosition_end {elapsed : Int} {bufLen : Nat} (pos : 0 < elapsed) (even : bufLen % 2 = 0) :
    rawPosition elapsed bufLen elapsed = bufLen := by
  rw [rawPosition, Int.mul_comm, Int.mul_fdiv_cancel _ (by omega)]
  omega

/-- Settles O38, from the characterisation of the position as a greatest even index. -/
theorem positionsOfAnOrderlyHost : Obligations.PositionsOfAnOrderlyHost := by
  unfold Obligations.PositionsOfAnOrderlyHost
  intro offset later elapsed bufLen one zero le last even
  have pos : 0 < elapsed := by omega
  have parity := rawPosition_even offset bufLen elapsed
  have next : ¬ rawPosition offset bufLen elapsed + 2 ≤ rawPosition offset bufLen elapsed := by omega
  rw [le_rawPosition_iff pos offset bufLen (by omega)] at next
  have first := rawPosition_mono pos zero bufLen
  have between := rawPosition_mono pos le bufLen
  have final := rawPosition_mono pos last bufLen
  rw [rawPosition_zero] at first
  rw [rawPosition_end pos even] at final
  refine ⟨first, parity, (le_rawPosition_iff pos offset bufLen parity).mp le_rfl, by omega, between, rawPosition_zero _ _,
    rawPosition_end pos even, ?_⟩
  rw [Bool.eq_false_iff, ne_eq, positionBroken_eq_true_iff]
  omega

end Sys2Proof.Machine
end

section
/-!
PROOFS. The steps of `beginFrame` and of `getSamples` are the whole operations of R101 and R105 (40_frame_timing.md): no command and no mix
reads the queue or the operation in progress, so the steps can be run in a state without them.
-/

namespace Sys2Proof.Machine

/-! ### A run of steps -/

theorem run_of_next {s t : State} (h : step s = .next t) (k : Nat) :
    Host.Core.run Sys2Proof.core (k + 1) s = Host.Core.run Sys2Proof.core k t := by
  have first : Sys2Proof.core.step s = .next t := h
  simp only [Host.Core.run, first]

theorem run_of_refused {s : State} {r : Refusal} (h : step s = .refused r) (k : Nat) :
    Host.Core.run Sys2Proof.core (k + 1) s = .refused r := by
  have first : Sys2Proof.core.step s = .refused r := h
  simp only [Host.Core.run, first]

/-! ### `beginFrame` -/

/-- The state after the commands of a queue, oldest first. -/
def applied (q : List Command) (s : State) : State := q.foldl (fun t cmd => written (decodeCommand cmd.r cmd.v) t) s

theorem applied_cons (cmd : Command) (q : List Command) (s : State) :
    applied (cmd :: q) s = applied q (written (decodeCommand cmd.r cmd.v) s) := rfl

theorem applyAll_eq_applied (q : List Command) (s : State) :
    applyAll (q.map fun cmd => decodeCommand cmd.r cmd.v) s = .next (applied q s) := by
  induction q generalizing s with
  | nil => rfl
  | cons cmd q ih => rw [List.map_cons, applyAll_cons (exec_eq_written _ s), ih, applied_cons]

theorem applyQueue_eq_applied (q : List Command) (s : State) : applyQueue q s = .next (applied q s) := by
  induction q generalizing s with
  | nil => rfl
  | cons cmd q ih => rw [applyQueue, applyRegister, exec_eq_written, applied_cons]; exact ih _

/-- No command reads or writes the queue or the operation in progress. -/
theorem written_with (i : Instr) (s : State) (q : List Command) (a : Activity) :
    written i { s with queue := q, activity := a } = { written i s with queue := q, activity := a } := by
  cases i <;> rfl

theorem applied_with (p : List Command) (s : State) (q : List Command) (a : Activity) :
    applied p { s with queue := q, activity := a } = { applied p s with queue := q, activity := a } := by
  induction p generalizing s with
  | nil => rfl
  | cons cmd p ih => rw [applied_cons, applied_cons, written_with, ih]

/-- Commands write voices and global registers only. -/
theorem applied_frame (q : List Command) (s : State) :
    applied q s = { s with voices := (applied q s).voices, g := (applied q s).g } := by
  induction q generalizing s with
  | nil => rfl
  | cons cmd q ih => rw [applied_cons, ih]; rfl

/-- The steps of a drain: the commands in order, then the origin. -/
theorem run_draining {s : State} {c : Int} (wf : s.cfg.wf = true) (act : s.activity = .draining c) :
    Host.Core.run Sys2Proof.core (s.queue.length + 1) s =
      .next { applied s.queue s with queue := [], time := { s.time with origin := c }, activity := .idle } := by
  generalize queue : s.queue = q
  induction q generalizing s with
  | nil =>
    have final := run_of_next (step_draining_end wf act queue) 0
    rw [queue] at final
    exact final
  | cons cmd q ih =>
    have first := (step_draining_command wf act queue).trans (exec_eq_written _ _)
    have rest := ih (s := written (decodeCommand cmd.r cmd.v) { s with queue := q }) wf act rfl
    have same := (written_with (decodeCommand cmd.r cmd.v) s q s.activity)
    rw [List.length_cons, run_of_next first, rest, applied_cons, same, applied_with]
    rfl

/-- Settles O24, by induction on the queue. -/
theorem beginFrameRunIsTheWholeDrain : Obligations.BeginFrameRunIsTheWholeDrain := by
  unfold Obligations.BeginFrameRunIsTheWholeDrain
  intro s c rest wf idle call
  have frame := applied_frame s.queue { s with queue := [], calls := rest }
  refine ⟨_, applyAll_eq_applied s.queue _, ?_, ?_⟩
  · rw [wholeBeginFrame, applyQueue_eq_applied, frame]
  · have begun := step_idle_call wf idle call
    have drain := run_draining (s := { s with calls := rest, activity := .draining c }) wf rfl
    have same := applied_with s.queue { s with calls := rest } s.queue (.draining c)
    have same' := applied_with s.queue { s with calls := rest } [] s.activity
    rw [run_of_next begun]
    refine drain.trans ?_
    rw [same, same', idle]

/-! ### `getSamples` -/

/-- Mixing reads and writes neither the queue nor the operation in progress. -/
theorem mixVoice_with (n : VoiceIndex) (a b : Nat) (s : State) (out : List Sample) (q : List Command) (act : Activity) :
    mixVoice n a b { s with queue := q, activity := act } out =
      ({ (mixVoice n a b s out).1 with queue := q, activity := act }, (mixVoice n a b s out).2) := by
  obtain ⟨v, d, mixed⟩ := mixVoice_adds n a b s
  rw [mixed s (.refl n s), mixed { s with queue := q, activity := act } ⟨rfl, rfl, rfl, rfl⟩]
  rfl

theorem mixVoices_with (ns : List VoiceIndex) (a b : Nat) (s : State) (out : List Sample) (q : List Command) (act : Activity) :
    mixVoices ns a b { s with queue := q, activity := act } out =
      ({ (mixVoices ns a b s out).1 with queue := q, activity := act }, (mixVoices ns a b s out).2) := by
  induction ns generalizing s out with
  | nil => rfl
  | cons n ns ih => rw [mixVoices_cons, mixVoices_cons, mixVoice_with, ih]

/-- What mixing a segment writes, whatever is queued or in progress: voices, and elements of the buffer. -/
theorem mixSegment_writes (a b : Nat) (s : State) (out : List Sample) :
    ∃ vs out', out'.length = out.length ∧ ∀ q act,
      mixSegment a b { s with queue := q, activity := act } out = ({ s with voices := vs, queue := q, activity := act }, out') := by
  obtain ⟨frame, length⟩ := mixVoices_writes mixedVoices a b s out
  refine ⟨(mixVoices mixedVoices a b s out).1.voices, (mixVoices mixedVoices a b s out).2, length, fun q act => ?_⟩
  rw [mixSegment, mixVoices_with, frame]

/-- What a whole `getSamples` leaves: the buffer handed over, and the queue, the times and the host settings as the statement of R105
about the splice has them. -/
def Spliced (s t : State) (length : Nat) : Prop :=
  t.queue = [] ∧ t.activity = .idle ∧ t.time = s.time ∧ t.host = s.host ∧
    ∃ out', out'.length = length ∧ t.outbox = s.outbox ++ [.samples out']

/-- One round of the splice, as the step does it and as the loop of R105 does it. -/
theorem splice_round (elapsed : Int) (start : Nat) (out : List Sample) (cmd : Command) (s : State) :
    ∃ vs g position out', out'.length = out.length ∧
      (∀ q act, mixToCommand elapsed start out cmd { s with queue := q, activity := act } =
        { s with voices := vs, g := g, queue := q, activity := .mixing elapsed position out' }) ∧
      ∀ rest q act, spliceQueue elapsed (cmd :: rest) start { s with queue := q, activity := act } out =
        spliceQueue elapsed rest position
          (written (decodeCommand cmd.r cmd.v) { s with voices := vs, g := g, queue := q, activity := act }) out' := by
  obtain ⟨vs, out', length, mixed⟩ := mixSegment_writes start
    (clampPosition (rawPosition cmd.timeOffset out.length elapsed) start out.length)
    (violationIf (positionBroken (rawPosition cmd.timeOffset out.length elapsed) start out.length) .positionOutOfRange s) out
  rw [violationIf_eq] at mixed
  refine ⟨vs, { s.g with
      contractViolation := positionBroken (rawPosition cmd.timeOffset out.length elapsed) start out.length || s.g.contractViolation },
    clampPosition (rawPosition cmd.timeOffset out.length elapsed) start out.length, out', length, fun q act => ?_,
    fun rest q act => ?_⟩
  · simp only [mixToCommand, violationIf_eq, mixed]
  · simp only [spliceQueue, violationIf_eq, mixed, applyRegister, exec_eq_written]

/-- The steps of a splice: from the segment cursor they are the loop of R105. -/
theorem run_mixing (q : List Command) {s : State} (elapsed : Int) (start : Nat) (out : List Sample) (wf : s.cfg.wf = true) :
    ∃ t, spliceQueue elapsed q start { s with queue := [], activity := .idle } out = .next t ∧
      Host.Core.run Sys2Proof.core (q.length + 1) { s with queue := q, activity := .mixing elapsed start out } = .next t ∧
      Spliced s t out.length := by
  induction q generalizing s start out with
  | nil =>
    obtain ⟨vs, out', length, mixed⟩ := mixSegment_writes start out.length s out
    have last := step_mixing_end (s := { s with queue := [], activity := .mixing elapsed start out }) wf rfl rfl
    rw [finishSamples, mixed] at last
    refine ⟨_, ?_, run_of_next last 0, rfl, rfl, rfl, rfl, out', length, rfl⟩
    rw [spliceQueue, mixed]
  | cons cmd q ih =>
    obtain ⟨vs, g, position, out', length, round, loop⟩ := splice_round elapsed start out cmd s
    have first := step_mixing_command (s := { s with queue := cmd :: q, activity := .mixing elapsed start out }) wf rfl rfl
    rw [round, exec_eq_written, written_with _ { s with voices := vs, g := g }] at first
    obtain ⟨t, whole, run, left⟩ := ih (s := written (decodeCommand cmd.r cmd.v) { s with voices := vs, g := g }) position out' wf
    refine ⟨t, ?_, (run_of_next first _).trans run, ?_⟩
    · rw [loop, written_with _ { s with voices := vs, g := g }, whole]
    · rw [← length]
      exact left

/-- Settles O25, by induction on the queue. -/
theorem getSamplesRunIsTheWholeSplice : Obligations.GetSamplesRunIsTheWholeSplice := by
  unfold Obligations.GetSamplesRunIsTheWholeSplice
  intro s out rest wf idle call even
  have begun := (step_idle_call wf idle call).trans (beginSamples_even even _)
  obtain ⟨t, whole, run, queue, act, time, host, handed⟩ := run_mixing s.queue (s := { s with
      calls := rest
      g := { s.g with contractViolation := decide (s.time.last - s.time.origin ≤ 0) || s.g.contractViolation } })
    (clampElapsed (s.time.last - s.time.origin)) 0 out wf
  refine ⟨t, ?_, (run_of_next begun _).trans run, queue, act, time, host, handed⟩
  rw [wholeGetSamples, violationIf_eq, ← whole, ← idle]

end Sys2Proof.Machine
end

section
/-!
PROOFS. The oscillator and the mixer (42_oscillator_mixer.md rules R160 to R172): what one voice adds to each element of a segment and which phase
it leaves, and from that what a whole segment can change and how large it can become.
-/

namespace Sys2Proof.Machine

/-! ### Playback (R161, R164, R169 to R171) -/

/-- Settles O40: the three disjuncts of the skip condition, and the first branch of the mix. -/
theorem skippedVoiceIsFrozen : Obligations.SkippedVoiceIsFrozen := by
  unfold Obligations.SkippedVoiceIsFrozen
  refine fun n a b s out => ⟨?_, fun skipped => mixVoice_of_skipped skipped a b out⟩
  have volume : ((s.voice n).volume = 0) ↔ (s.voice n).volume.toNat = 0 := BitVec.toNat_inj.symm
  simp only [voiceSkipped, Bool.or_eq_true, Bool.and_eq_true, Bool.not_eq_true', beq_iff_eq, volume, or_assoc]

theorem playbackFrequency_noise (c : Config) {v : Voice} (noise : v.noiseChannel = true) :
    playbackFrequency c v = some v.noiseFrequency := by
  simp [playbackFrequency, noise]

theorem playbackFrequency_direct (c : Config) {v : Voice} (noise : v.noiseChannel = false) (direct : v.dda = true) :
    playbackFrequency c v = some 0 := by
  simp [playbackFrequency, noise, direct]

theorem playbackFrequency_tone (c : Config) {v : Voice} (noise : v.noiseChannel = false) (direct : v.dda = false)
    (audible : 2 ≤ v.frequency.toNat) : playbackFrequency c v = some (c.mclk / (32 * v.frequency.toNat)) := by
  simp [playbackFrequency, noise, direct, show ¬ v.frequency.toNat ≤ 1 by omega]

theorem playbackFrequency_silent (c : Config) {v : Voice} (noise : v.noiseChannel = false) (direct : v.dda = false)
    (silent : v.frequency.toNat ≤ 1) : playbackFrequency c v = none := by
  simp [playbackFrequency, noise, direct, silent]

theorem mixVoice_of_silent {n : VoiceIndex} {s : State} (silent : playbackFrequency s.cfg (s.voice n) = none) (a b : Nat)
    (out : List Sample) : mixVoice n a b s out = (s, out) := by
  rw [mixVoice, silent]
  exact ite_self _

/-- Settles O41: the branches of the playback frequency, and the mix of a silent one. -/
theorem playbackFrequencyOfEachMode : Obligations.PlaybackFrequencyOfEachMode := by
  unfold Obligations.PlaybackFrequencyOfEachMode
  exact ⟨fun c v => playbackFrequency_noise c, fun c v => playbackFrequency_direct c, fun c v => playbackFrequency_tone c,
    fun n a b s out noise direct silent => mixVoice_of_silent (playbackFrequency_silent s.cfg noise direct silent) a b out⟩

theorem channelLevel_lt (globalAtt panAtt : Nat) (volume : BitVec 5) : channelLevel globalAtt panAtt volume < 32 := by
  simp only [channelLevel]
  omega

/-- The one clamp of `Nat` subtraction is the clamp of R170. -/
theorem channelLevel_eq_max (globalAtt panAtt : Nat) (volume : BitVec 5) :
    (channelLevel globalAtt panAtt volume : Int) = max 0 (31 - (globalAtt : Int) - panAtt - (31 - (volume.toNat : Int))) := by
  have := volume.isLt
  simp only [channelLevel]
  omega

theorem gainOfLevel_eq (c : Config) (level : Fin 32) : gainOfLevel c level.val = c.log[level.val] := by
  simp only [gainOfLevel, Nat.mod_eq_of_lt level.isLt]

/-- Settles O45: the two selectors of a panning byte, and the level of each channel. -/
theorem channelLevelIsClampedAtZero : Obligations.ChannelLevelIsClampedAtZero := by
  unfold Obligations.ChannelLevelIsClampedAtZero
  intro c g v panL panR panning
  have left : v.panning.extractLsb' 4 4 = panL := by rw [panning]; exact BitVec.extractLsb'_append_eq_left
  have right : v.panning.extractLsb' 0 4 = panR := by rw [panning]; exact BitVec.extractLsb'_append_eq_right
  refine ⟨⟨_, channelLevel_lt (reduction c g.mainVolumeLeft) (reduction c panL) v.volume⟩,
    ⟨_, channelLevel_lt (reduction c g.mainVolumeRight) (reduction c panR) v.volume⟩,
    channelLevel_eq_max _ _ _, channelLevel_eq_max _ _ _, ?_, ?_⟩
  · rw [gainLeft, left]
    exact gainOfLevel_eq c ⟨_, channelLevel_lt _ _ _⟩
  · rw [gainRight, right]
    exact gainOfLevel_eq c ⟨_, channelLevel_lt _ _ _⟩

/-! ### What the loop over pairs adds (R166) -/

/-- The phase before pair `k` of the loop. -/
def pairPhase (wl rate phase : F32) (k : Nat) : F32 := (fun p => advancePhase wl rate (f32Fmod p wl))^[k] phase

theorem pairPhase_zero (wl rate phase : F32) : pairPhase wl rate phase 0 = phase := rfl

theorem pairPhase_succ (wl rate phase : F32) (k : Nat) :
    pairPhase wl rate phase (k + 1) = advancePhase wl rate (f32Fmod (pairPhase wl rate phase k) wl) :=
  Function.iterate_succ_apply' _ k phase

theorem pairPhase_advance (wl rate phase : F32) (k : Nat) :
    pairPhase wl rate (advancePhase wl rate (f32Fmod phase wl)) k = pairPhase wl rate phase (k + 1) :=
  (Function.iterate_succ_apply _ k phase).symm

/-- What the loop over `pairs` pairs from element `i` adds to element `j`: left gain on the first element of a pair, right on the second. -/
def pairsAdd (c : Config) (v : Voice) (amp : BitVec 15) (wl rate : F32) (gainL gainR : BitVec 8) (phase : F32) (pairs i j : Nat) :
    Sample :=
  if i ≤ j ∧ j < i + 2 * pairs then
    wrap16 (scaleSample amp (voiceSample c v (f32Fmod (pairPhase wl rate phase ((j - i) / 2)) wl))
      (if (j - i) % 2 = 0 then gainL else gainR))
  else 0

section
variable (c : Config) (v : Voice) (amp : BitVec 15) (wl rate : F32) (gainL gainR : BitVec 8)

theorem mixPair_eq (x : Sample) (i : Nat) (out : List Sample) :
    mixPair amp gainL gainR x i out = addEach (fun j =>
      (if i = j then wrap16 (scaleSample amp x gainL) else 0) + if i + 1 = j then wrap16 (scaleSample amp x gainR) else 0) out := by
  rw [mixPair, outAdd_eq_addEach, outAdd_eq_addEach, addEach_addEach]

/-- The first pair and the rest of the loop, element by element. -/
theorem pairsAdd_succ (phase : F32) (pairs i j : Nat) :
    ((if i = j then wrap16 (scaleSample amp (voiceSample c v (f32Fmod phase wl)) gainL) else 0) +
        (if i + 1 = j then wrap16 (scaleSample amp (voiceSample c v (f32Fmod phase wl)) gainR) else 0)) +
      pairsAdd c v amp wl rate gainL gainR (advancePhase wl rate (f32Fmod phase wl)) pairs (i + 2) j =
    pairsAdd c v amp wl rate gainL gainR phase (pairs + 1) i j := by
  obtain before | left | right | ⟨m, later⟩ : j < i ∨ j = i ∨ j = i + 1 ∨ ∃ m, j = i + 2 + m := by
    by_cases h : j < i + 2
    · omega
    · exact .inr (.inr (.inr ⟨j - (i + 2), by omega⟩))
  · simp [pairsAdd, show i ≠ j by omega, show i + 1 ≠ j by omega, show ¬ i ≤ j by omega, show ¬ i + 2 ≤ j by omega]
  · subst left
    simp [pairsAdd, pairPhase_zero]
  · subst right
    simp [pairsAdd, pairPhase_zero, show i + 1 < i + 2 * (pairs + 1) by omega]
  · have half : (j - i) / 2 = (j - (i + 2)) / 2 + 1 := by omega
    have parity : (j - i) % 2 = (j - (i + 2)) % 2 := by omega
    have range : (i ≤ j ∧ j < i + 2 * (pairs + 1)) ↔ (i + 2 ≤ j ∧ j < i + 2 + 2 * pairs) := by omega
    simp only [pairsAdd, show i ≠ j by omega, show i + 1 ≠ j by omega, if_false, zero_add, half, parity, range,
      pairPhase_advance]

theorem mixPairs_eq (pairs i : Nat) (phase : F32) (out : List Sample) :
    mixPairs c v amp wl rate gainL gainR pairs i phase out =
      (pairPhase wl rate phase pairs, addEach (pairsAdd c v amp wl rate gainL gainR phase pairs i) out) := by
  induction pairs generalizing i phase out with
  | zero =>
    have nothing : pairsAdd c v amp wl rate gainL gainR phase 0 i = fun _ => 0 := by
      funext j
      exact if_neg (by omega)
    rw [nothing, addEach_zero]
    rfl
  | succ pairs ih =>
    have adds := funext (pairsAdd_succ c v amp wl rate gainL gainR phase pairs i)
    simp only [mixPairs, ih, mixPair_eq, addEach_addEach, adds, pairPhase_advance]

end

/-! ### What one voice adds (R161 to R167) -/

/-- The phase of voice `n` before pair `k`, played at `f`. -/
def voicePhase (s : State) (n : VoiceIndex) (f k : Nat) : F32 :=
  pairPhase (f32OfNat (waveformLength s.cfg (s.voice n))) (phaseRate s.cfg f (waveformLength s.cfg (s.voice n))) (s.voice n).phase k

/-- What voice `n`, played at `f`, adds to element `j` of the segment. -/
def voiceAdd (s : State) (n : VoiceIndex) (f a b j : Nat) : Sample :=
  pairsAdd s.cfg (s.voice n) s.host.amp (f32OfNat (waveformLength s.cfg (s.voice n)))
    (phaseRate s.cfg f (waveformLength s.cfg (s.voice n))) (gainLeft s.cfg s.g (s.voice n)) (gainRight s.cfg s.g (s.voice n))
    (s.voice n).phase ((b - a) / 2) a j

theorem mixVoice_sounding {n : VoiceIndex} {s : State} {f : Nat} (audible : voiceSkipped s n = false)
    (plays : playbackFrequency s.cfg (s.voice n) = some f) (a b : Nat) (out : List Sample) :
    mixVoice n a b s out = (s.setVoice n { s.voice n with phase := voicePhase s n f ((b - a) / 2) }, addEach (voiceAdd s n f a b) out) := by
  simp only [mixVoice, audible, plays, mixPairs_eq]
  rfl

/-- One voice is silent in a segment, or sounds at a frequency. -/
theorem mixVoice_cases (n : VoiceIndex) (a b : Nat) (s : State) :
    (∀ out, mixVoice n a b s out = (s, out)) ∨ ∃ f, ∀ out, mixVoice n a b s out =
      (s.setVoice n { s.voice n with phase := voicePhase s n f ((b - a) / 2) }, addEach (voiceAdd s n f a b) out) := by
  cases skipped : voiceSkipped s n with
  | true => exact .inl fun out => mixVoice_of_skipped skipped a b out
  | false =>
    cases plays : playbackFrequency s.cfg (s.voice n) with
    | none => exact .inl fun out => mixVoice_of_silent plays a b out
    | some f => exact .inr ⟨f, fun out => mixVoice_sounding skipped plays a b out⟩

/-! ### Headroom (R167) -/

/-- Truncation toward zero divides the magnitude. -/
theorem natAbs_scaleSample (amp : BitVec 15) (x : Sample) (gain : BitVec 8) :
    (scaleSample amp x gain).natAbs = x.toInt.natAbs * gain.toNat / 255 / 6 * amp.toNat / 32767 := by
  simp only [scaleSample, tdiv, Int.natAbs_tdiv, Int.natAbs_mul, Int.natAbs_natCast]
  rfl

/-- One contribution is at most 5461 in magnitude: each factor is at most its divisor but for the division by 6. -/
theorem scaleSample_natAbs_le (amp : BitVec 15) (x : Sample) (gain : BitVec 8) : (scaleSample amp x gain).natAbs ≤ 5461 := by
  have sample : x.toInt.natAbs ≤ 32768 := by
    have low := x.le_toInt
    have high := x.toInt_lt
    omega
  have gained : x.toInt.natAbs * gain.toNat ≤ 32768 * 255 := Nat.mul_le_mul sample (by have := gain.isLt; omega)
  have sixth : x.toInt.natAbs * gain.toNat / 255 / 6 ≤ 5461 := by omega
  have amplified : x.toInt.natAbs * gain.toNat / 255 / 6 * amp.toNat ≤ 5461 * 32767 :=
    Nat.mul_le_mul sixth (by have := amp.isLt; omega)
  rw [natAbs_scaleSample]
  omega

theorem natAbs_wrap16 {x : Int} (h : x.natAbs ≤ 32767) : (wrap16 x).toInt.natAbs = x.natAbs := by
  rw [wrap16, BitVec.toInt_ofInt, Int.bmod_eq_of_le (by omega) (by omega)]

theorem natAbs_add_le {x y : Sample} (h : x.toInt.natAbs + y.toInt.natAbs ≤ 32767) :
    (x + y).toInt.natAbs ≤ x.toInt.natAbs + y.toInt.natAbs := by
  rw [BitVec.toInt_add, Int.bmod_eq_of_le (by omega) (by omega)]
  exact Int.natAbs_add_le _ _

theorem voiceAdd_natAbs_le (s : State) (n : VoiceIndex) (f a b j : Nat) : (voiceAdd s n f a b j).toInt.natAbs ≤ 5461 := by
  unfold voiceAdd pairsAdd
  split
  · rw [natAbs_wrap16 (by have := scaleSample_natAbs_le; exact (this _ _ _).trans (by decide))]
    exact scaleSample_natAbs_le _ _ _
  · decide

theorem voiceAdd_outside {s : State} {n : VoiceIndex} {f a b j : Nat} (ordered : a ≤ b) (outside : j < a ∨ b ≤ j) :
    voiceAdd s n f a b j = 0 :=
  if_neg (by omega)

/-! ### What a list of voices adds (R160, R168) -/

/-- What some voices leave of a segment: they write phases only, and what they add does not depend on the buffer, lies in the segment, and
is at most 5461 for each voice. -/
structure Adds (ns : List VoiceIndex) (a b : Nat) (s t : State) (d : Nat → Sample) : Prop where
  mixes : ∀ out, mixVoices ns a b s out = (t, addEach d out)
  phases : ∀ m, t.voice m = { s.voice m with phase := (t.voice m).phase }
  outside : a ≤ b → ∀ j, j < a ∨ b ≤ j → d j = 0
  bounded : ns.length ≤ 6 → ∀ j, (d j).toInt.natAbs ≤ 5461 * ns.length

theorem adds_nil (a b : Nat) (s : State) : Adds [] a b s s fun _ => 0 where
  mixes out := by rw [addEach_zero]; rfl
  phases _ := rfl
  outside _ _ _ := rfl
  bounded _ _ := by decide

theorem voice_setVoice_phase (s : State) (n m : VoiceIndex) (phase : F32) :
    (s.setVoice n { s.voice n with phase := phase }).voice m =
      { s.voice m with phase := ((s.setVoice n { s.voice n with phase := phase }).voice m).phase } := by
  rw [s.voice_setVoice]
  split
  · next same => rw [same]
  · rfl

theorem Adds.cons {n : VoiceIndex} {ns : List VoiceIndex} {a b : Nat} {s s' t : State} {d e : Nat → Sample}
    (first : Adds [n] a b s s' d) (rest : Adds ns a b s' t e) : Adds (n :: ns) a b s t fun j => d j + e j where
  mixes out := by
    have one : mixVoice n a b s out = (s', addEach d out) := first.mixes out
    rw [mixVoices_cons, one, rest.mixes, addEach_addEach]
  phases m := by rw [rest.phases m, first.phases m]
  outside ordered j out := by rw [first.outside ordered j out, rest.outside ordered j out]; rfl
  bounded few j := by
    rw [List.length_cons] at few
    have one : (d j).toInt.natAbs ≤ 5461 := first.bounded (by simp) j
    have others := rest.bounded (by omega) j
    have sum := natAbs_add_le (x := d j) (y := e j) (by omega)
    rw [List.length_cons]
    omega

theorem adds_single (n : VoiceIndex) (a b : Nat) (s : State) : ∃ t d, Adds [n] a b s t d := by
  obtain silent | ⟨f, sounds⟩ := mixVoice_cases n a b s
  · exact ⟨s, _, ⟨fun out => (silent out).trans (congrArg _ (addEach_zero out).symm), fun _ => rfl, fun _ _ _ => rfl,
      fun _ _ => by simp⟩⟩
  · exact ⟨_, _, ⟨sounds, fun m => voice_setVoice_phase s n m _, fun ordered j => voiceAdd_outside ordered,
      fun _ => voiceAdd_natAbs_le s n f a b⟩⟩

theorem adds_list (ns : List VoiceIndex) (a b : Nat) (s : State) : ∃ t d, Adds ns a b s t d := by
  induction ns generalizing s with
  | nil => exact ⟨s, _, adds_nil a b s⟩
  | cons n ns ih =>
    obtain ⟨s', d, first⟩ := adds_single n a b s
    obtain ⟨t, e, rest⟩ := ih s'
    exact ⟨t, _, first.cons rest⟩

/-! ### Buffers -/

theorem addEach_getElem? (d : Nat → Sample) (out : List Sample) (i : Nat) : (addEach d out)[i]? = out[i]?.map (· + d i) :=
  List.getElem?_mapIdx

theorem addEach_length (d : Nat → Sample) (out : List Sample) : (addEach d out).length = out.length := List.length_mapIdx

/-- An addition to a buffer is the element-wise sum with the same addition to zeros. -/
theorem addEach_eq_zipWith (d : Nat → Sample) (out : List Sample) {len : Nat} (length : out.length = len) :
    addEach d out = List.zipWith (· + ·) out (addEach d (List.replicate len 0)) := by
  refine List.ext_getElem? fun i => ?_
  rw [addEach_getElem?, List.getElem?_zipWith, addEach_getElem?]
  by_cases inside : i < len
  · simp [inside, length]
  · simp [List.getElem?_eq_none (l := out) (i := i) (by omega)]

/-- Settles O42: `Adds` of the six voices. -/
theorem mixingChangesOnlyPhasesAndTheSegment : Obligations.MixingChangesOnlyPhasesAndTheSegment := by
  unfold Obligations.MixingChangesOnlyPhasesAndTheSegment
  intro a b s out ordered
  obtain ⟨t, d, adds⟩ := adds_list mixedVoices a b s
  obtain ⟨frame, length⟩ := mixVoices_writes mixedVoices a b s out
  rw [mixSegment]
  refine ⟨frame, fun n => ?_, length, fun i outside => ?_⟩
  · rw [adds.mixes]
    exact adds.phases n
  · rw [adds.mixes, addEach_getElem?, adds.outside ordered i outside]
    simp

/-- Settles O43: what is added does not depend on the buffer, and the second voice does not read what the first writes. -/
theorem mixingIsAdditive : Obligations.MixingIsAdditive := by
  unfold Obligations.MixingIsAdditive
  refine ⟨fun a b s out => ?_, fun n m a b len s other => ?_⟩
  · obtain ⟨t, d, adds⟩ := adds_list mixedVoices a b s
    rw [mixSegment, mixSegment, adds.mixes, adds.mixes]
    exact ⟨rfl, addEach_eq_zipWith d out rfl⟩
  · obtain ⟨v, d, first⟩ := mixVoice_adds n a b s
    obtain ⟨w, e, second⟩ := mixVoice_adds m a b s
    have both : mixVoices [n, m] a b s (List.replicate len 0) =
        ((s.setVoice n v).setVoice m w, addEach e (addEach d (List.replicate len 0))) := by
      rw [mixVoices_cons, first s (.refl n s), mixVoices_cons, second _ (agreeFor_setVoice (Ne.symm other) s v)]
      rfl
    rw [both, first s (.refl n s), second s (.refl m s)]
    exact addEach_eq_zipWith e _ (by rw [addEach_length, List.length_replicate])

/-- Settles O44: six contributions of at most 5461 do not wrap. -/
theorem sixVoicesNeverClip : Obligations.SixVoicesNeverClip := by
  unfold Obligations.SixVoicesNeverClip
  refine ⟨fun amp x gain => ?_, fun a b len i s => ?_⟩
  · have magnitude := scaleSample_natAbs_le amp x gain
    omega
  · obtain ⟨t, d, adds⟩ := adds_list mixedVoices a b s
    have bound : (d i).toInt.natAbs ≤ 32766 := adds.bounded (by decide) i
    rw [mixSegment, adds.mixes, List.getD_eq_getElem?_getD, addEach_getElem?]
    by_cases inside : i < len
    · simp [inside]
      omega
    · simp [inside]

/-! ### A sounding voice (R163 to R167) -/

theorem addEach_getD {i : Nat} {out : List Sample} (inside : i < out.length) (d : Nat → Sample) :
    (addEach d out).getD i 0 = out.getD i 0 + d i := by
  rw [List.getD_eq_getElem?_getD, List.getD_eq_getElem?_getD, addEach_getElem?, List.getElem?_eq_getElem inside]
  rfl

theorem voiceAdd_left {s : State} {n : VoiceIndex} {f a b k : Nat} (pair : k < (b - a) / 2) :
    voiceAdd s n f a b (a + 2 * k) = wrap16 (scaleSample s.host.amp
      (voiceSample s.cfg (s.voice n) (f32Fmod (voicePhase s n f k) (f32OfNat (waveformLength s.cfg (s.voice n)))))
      (gainLeft s.cfg s.g (s.voice n))) := by
  have place : (a + 2 * k - a) / 2 = k := by omega
  have parity : (a + 2 * k - a) % 2 = 0 := by omega
  rw [voiceAdd, pairsAdd, if_pos (by omega), if_pos parity, place, voicePhase]

theorem voiceAdd_right {s : State} {n : VoiceIndex} {f a b k : Nat} (pair : k < (b - a) / 2) :
    voiceAdd s n f a b (a + 2 * k + 1) = wrap16 (scaleSample s.host.amp
      (voiceSample s.cfg (s.voice n) (f32Fmod (voicePhase s n f k) (f32OfNat (waveformLength s.cfg (s.voice n)))))
      (gainRight s.cfg s.g (s.voice n))) := by
  have place : (a + 2 * k + 1 - a) / 2 = k := by omega
  have parity : (a + 2 * k + 1 - a) % 2 ≠ 0 := by omega
  rw [voiceAdd, pairsAdd, if_pos (by omega), if_neg parity, place, voicePhase]

theorem f32Sign_eq_decide (a : F32) : f32Sign a = decide (2 ^ 31 ≤ a.toNat) :=
  (BitVec.msb_eq_getLsbD_last a).symm.trans (BitVec.msb_eq_decide a)

theorem f32Magnitude_eq_zero_iff (a : F32) : f32Magnitude a = 0 ↔ f32Exponent a = 0 ∧ f32Fraction a = 0 := by
  unfold f32Magnitude
  split
  · next subnormal => simp [subnormal]
  · next normal =>
    have positive : 0 < (2 ^ 23 + f32Fraction a) * 2 ^ (f32Exponent a - 1) := by positivity
    exact ⟨fun zero => absurd zero positive.ne', fun zero => absurd zero.1 normal⟩

/-- A phase that `restore` accepts is one of the values that are finite and not below zero. -/
theorem f32NonNegative_iff (a : F32) : f32NonNegative a = true ↔ AcceptedPhase a := by
  have sign : a.getLsbD 31 = f32Sign a := rfl
  simp only [f32NonNegative, f32Finite, AcceptedPhase, Bool.and_eq_true, bne_iff_ne, decide_eq_true_eq, sign]
  refine and_congr_right fun _ => ?_
  unfold f32Units
  cases negative : f32Sign a with
  | false => simp
  | true =>
    have bit : 2 ^ 31 ≤ a.toNat := by rwa [f32Sign_eq_decide, decide_eq_true_eq] at negative
    have zero : (0 ≤ -(f32Magnitude a : Int)) ↔ f32Magnitude a = 0 := by omega
    have bound := a.isLt
    rw [if_pos rfl, zero, f32Magnitude_eq_zero_iff, f32Exponent, f32Fraction, ← BitVec.toNat_inj]
    simp only [BitVec.toNat_ofNat, Bool.true_eq_false, false_or]
    omega

theorem f32TruncInt_of_accepted {a : F32} (accepted : AcceptedPhase a) : f32TruncInt a = f32Magnitude a / 2 ^ 149 :=
  if_pos ((f32NonNegative_iff a).mpr accepted)

theorem Voice.waveRead_eq {v : Voice} {i : Nat} {x : Sample} (entry : v.wave[i]? = some x) : v.waveRead i = x := by
  obtain ⟨inside, value⟩ := Vector.getElem?_eq_some_iff.mp entry
  rw [Voice.waveRead, dif_pos inside, value]

theorem noiseRead_eq {c : Config} {i : Nat} {x : Sample} (entry : c.noise[i]? = some x) : noiseRead c i = x := by
  rw [noiseRead, List.getD_eq_getElem?_getD, entry]
  rfl

/-- The sample of a pair (R166), where the index read lies in the active waveform. -/
theorem voiceSample_eq {c : Config} {v : Voice} {p : F32} {x : Sample} (direct : v.dda = true → x = v.ddaValue)
    (waveform : v.dda = false → AcceptedPhase p ∧
      (v.noiseChannel = true → c.noise[f32Magnitude p / 2 ^ 149]? = some x) ∧
      (v.noiseChannel = false → v.wave[f32Magnitude p / 2 ^ 149]? = some x)) : voiceSample c v p = x := by
  cases dda : v.dda with
  | true => rw [voiceSample, if_pos dda, direct dda]
  | false =>
    obtain ⟨accepted, noise, wave⟩ := waveform dda
    rw [voiceSample, if_neg (by simp [dda]), waveformRead, f32TruncInt_of_accepted accepted]
    cases flag : v.noiseChannel with
    | true => exact noiseRead_eq (noise flag)
    | false => exact Voice.waveRead_eq (wave flag)

/-- Settles O60: the loop over the pairs of a voice that sounds. -/
theorem soundingVoiceReadsItsWaveform : Obligations.SoundingVoiceReadsItsWaveform := by
  unfold Obligations.SoundingVoiceReadsItsWaveform
  rintro n a b f length s out v wl rate phase rfl audible noise wave direct tone wl_eq rate_eq first advance ordered - inside
  have plays : playbackFrequency s.cfg (s.voice n) = some f := by
    cases flag : (s.voice n).noiseChannel with
    | true => rw [playbackFrequency_noise _ flag, (noise flag).1]
    | false =>
      cases dda : (s.voice n).dda with
      | true => rw [playbackFrequency_direct _ flag dda, direct flag dda]
      | false =>
        obtain ⟨sounds, frequency⟩ := tone flag dda
        rw [playbackFrequency_tone _ flag dda sounds, frequency]
  have length_eq : waveformLength s.cfg (s.voice n) = length := by
    cases flag : (s.voice n).noiseChannel with
    | true => rw [waveformLength, if_pos flag, (noise flag).2, Config.noiseLen]
    | false => rw [waveformLength, if_neg (by simp [flag]), wave flag]
  have phases : ∀ k, phase k = voicePhase s n f k := fun k => by
    induction k with
    | zero => exact first
    | succ k ih => rw [advance, ih, rate_eq, wl_eq, voicePhase, voicePhase, pairPhase_succ, length_eq]; rfl
  refine ⟨addEach (voiceAdd s n f a b) out, ?_, addEach_length _ _, fun i outside => ?_, fun k x pair held read => ?_⟩
  · rw [mixVoice_sounding audible plays, phases]
  · rw [addEach_getElem?, voiceAdd_outside ordered outside]
    simp
  · have sample : voiceSample s.cfg (s.voice n) (f32Fmod (voicePhase s n f k) (f32OfNat (waveformLength s.cfg (s.voice n)))) = x := by
      rw [← phases, length_eq, ← wl_eq]
      exact voiceSample_eq held read
    rw [addEach_getD (by omega), addEach_getD (by omega), voiceAdd_left pair, voiceAdd_right pair, sample]
    exact ⟨rfl, rfl⟩

end Sys2Proof.Machine
end

section
/-!
PROOFS. Snapshots (43_serialization.md rules R200 to R205): a record that `restore` accepts is the snapshot of some state, and `restore` writes
the fields of that state.
-/

namespace Sys2Proof.Machine

/-! ### Fields -/

theorem unsignedField_eq_some_iff {w : Nat} {x : Option FieldValue} {b : BitVec w} :
    unsignedField w x = some b ↔ x = some (.int b.toNat) := by
  unfold unsignedField
  split
  · next i =>
    rw [Option.some.injEq, FieldValue.int.injEq, Option.ite_none_right_eq_some, Option.some.injEq]
    constructor
    · rintro ⟨⟨low, high⟩, rfl⟩
      exact (toNat_ofInt_of_fits low high).symm
    · rintro rfl
      exact ⟨⟨Int.natCast_nonneg _, by exact_mod_cast b.isLt⟩, by rw [BitVec.ofInt_natCast, BitVec.ofNat_toNat, BitVec.setWidth_eq]⟩
  · next other => exact ⟨nofun, fun h => absurd h (other _)⟩

theorem boolField_eq_some_iff {x : Option FieldValue} {b : Bool} : boolField x = some b ↔ x = some (.bool b) := by
  unfold boolField
  split
  · simp
  · next other => exact ⟨nofun, fun h => absurd h (other _)⟩

theorem naturalField_eq_some_iff {x : Option FieldValue} {n : Nat} : naturalField x = some n ↔ x = some (.int n) := by
  unfold naturalField
  split
  · next i =>
    rw [Option.some.injEq, FieldValue.int.injEq, Option.ite_none_right_eq_some, Option.some.injEq]
    omega
  · next other => exact ⟨nofun, fun h => absurd h (other _)⟩

theorem wrap16_toInt (x : Sample) : wrap16 x.toInt = x := BitVec.ofInt_toInt

theorem sampleOfInt_eq_some_iff {i : Int} {x : Sample} : sampleOfInt i = some x ↔ i = x.toInt := by
  rw [sampleOfInt, Option.ite_none_right_eq_some, Option.some.injEq]
  constructor
  · rintro ⟨⟨low, high⟩, rfl⟩
    rw [wrap16, BitVec.toInt_ofInt, Int.bmod_eq_of_le (by omega) (by omega)]
  · rintro rfl
    have low := x.le_toInt
    have high := x.toInt_lt
    exact ⟨⟨by omega, by omega⟩, wrap16_toInt x⟩

theorem sampleField_eq_some_iff {x : Option FieldValue} {b : Sample} : sampleField x = some b ↔ x = some (.int b.toInt) := by
  unfold sampleField
  split
  · rw [sampleOfInt_eq_some_iff, Option.some.injEq, FieldValue.int.injEq]
  · next other => exact ⟨nofun, fun h => absurd h (other _)⟩

theorem samplesOfInts_cons_eq_some_iff {i : Int} {rest : List Int} {xs : List Sample} :
    samplesOfInts (i :: rest) = some xs ↔ ∃ y ys, sampleOfInt i = some y ∧ samplesOfInts rest = some ys ∧ y :: ys = xs := by
  rw [samplesOfInts]
  split
  · next y ys head tail => simp [head, tail]
  · next none =>
    refine ⟨nofun, ?_⟩
    rintro ⟨y, ys, head, tail, -⟩
    exact absurd tail (none y ys head)

theorem samplesOfInts_eq_some_iff {l : List Int} {xs : List Sample} : samplesOfInts l = some xs ↔ l = xs.map BitVec.toInt := by
  induction l generalizing xs with
  | nil => cases xs <;> simp [samplesOfInts]
  | cons i rest ih =>
    simp only [samplesOfInts_cons_eq_some_iff, sampleOfInt_eq_some_iff, ih]
    constructor
    · rintro ⟨y, ys, rfl, rfl, rfl⟩
      rfl
    · intro mapped
      obtain ⟨y, ys, rfl, head, tail⟩ := List.map_eq_cons_iff.mp mapped.symm
      exact ⟨y, ys, head.symm, tail.symm, rfl⟩

theorem waveField_eq_some_iff {x : Option FieldValue} {w : Vector Sample 32} :
    waveField x = some w ↔ x = some (.samples (w.toList.map BitVec.toInt)) := by
  unfold waveField
  split
  · next l =>
    rw [Option.some.injEq, FieldValue.samples.injEq, ← samplesOfInts_eq_some_iff]
    cases read : samplesOfInts l with
    | none => simp
    | some xs =>
      simp only [Option.dite_none_right_eq_some, Option.some.injEq]
      constructor
      · rintro ⟨length, rfl⟩
        rfl
      · rintro rfl
        exact ⟨w.length_toList, rfl⟩
  · next other => exact ⟨nofun, fun h => absurd h (other _)⟩

theorem phaseField_eq_some_iff {x : Option FieldValue} {p : F32} : phaseField x = some p ↔ x = some (.f32 p) ∧ AcceptedPhase p := by
  unfold phaseField
  split
  · next bits =>
    rw [Option.ite_none_right_eq_some, f32NonNegative_iff, Option.some.injEq, Option.some.injEq, FieldValue.f32.injEq]
    constructor
    · rintro ⟨accepted, rfl⟩
      exact ⟨rfl, accepted⟩
    · rintro ⟨rfl, accepted⟩
      exact ⟨accepted, rfl⟩
  · next other => exact ⟨nofun, fun h => absurd h.1 (other _)⟩

/-! ### Records -/

/-- A voice record is accepted when it is that of a voice with an accepted phase, and then writes that voice but for its noise fields. -/
theorem VoiceRecord.into_eq_some_iff {record : VoiceRecord} {v w : Voice} :
    record.into v = some w ↔ record = .ofVoice w ∧ AcceptedPhase w.phase ∧
      w.noiseChannel = v.noiseChannel ∧ w.noiseFrequency = v.noiseFrequency := by
  obtain ⟨frequency, panning, volume, enabled, dda, ddaValue, phase, wave⟩ := record
  simp only [VoiceRecord.into, Option.bind_eq_bind, Option.bind_eq_some_iff, unsignedField_eq_some_iff, boolField_eq_some_iff,
    sampleField_eq_some_iff, phaseField_eq_some_iff, waveField_eq_some_iff, VoiceRecord.ofVoice, VoiceRecord.mk.injEq,
    Option.some.injEq]
  constructor
  · rintro ⟨f, rfl, p, rfl, vol, rfl, e, rfl, d, rfl, dv, rfl, ph, ⟨rfl, accepted⟩, wv, rfl, rfl⟩
    exact ⟨⟨rfl, rfl, rfl, rfl, rfl, rfl, rfl, rfl⟩, accepted, rfl, rfl⟩
  · rintro ⟨⟨rfl, rfl, rfl, rfl, rfl, rfl, rfl, rfl⟩, accepted, channel, noise⟩
    refine ⟨_, rfl, _, rfl, _, rfl, _, rfl, _, rfl, _, rfl, _, ⟨rfl, accepted⟩, _, rfl, ?_⟩
    rw [← channel, ← noise]

theorem NoiseRecord.into_eq_some_iff {record : NoiseRecord} {v w : Voice} :
    record.into v = some w ↔ record = .ofVoice w ∧
      w = { v with noiseChannel := w.noiseChannel, noiseFrequency := w.noiseFrequency } := by
  obtain ⟨channel, noise⟩ := record
  simp only [NoiseRecord.into, Option.bind_eq_bind, Option.bind_eq_some_iff, boolField_eq_some_iff, naturalField_eq_some_iff,
    NoiseRecord.ofVoice, NoiseRecord.mk.injEq, Option.some.injEq]
  constructor
  · rintro ⟨c, rfl, f, rfl, rfl⟩
    exact ⟨⟨rfl, rfl⟩, rfl⟩
  · rintro ⟨⟨rfl, rfl⟩, voice⟩
    exact ⟨_, rfl, _, rfl, voice.symm⟩

theorem restoreGlobals_eq_some_iff {record : Snapshot} {s t : State} :
    restoreGlobals record s = some t ↔
      (record.mainVolumeLeft = some (.int t.g.mainVolumeLeft.toNat) ∧ record.mainVolumeRight = some (.int t.g.mainVolumeRight.toNat) ∧
        record.voiceLatch = some (.int t.g.voiceLatch.toNat) ∧ record.waveWriteCursor = some (.int t.g.waveWriteCursor.toNat)) ∧
      t = { s with g := { t.g with contractViolation := s.g.contractViolation } } := by
  simp only [restoreGlobals, Option.bind_eq_bind, Option.bind_eq_some_iff, unsignedField_eq_some_iff, Option.some.injEq]
  constructor
  · rintro ⟨left, hl, right, hr, latch, hv, cursor, hc, rfl⟩
    exact ⟨⟨hl, hr, hv, hc⟩, rfl⟩
  · rintro ⟨⟨hl, hr, hv, hc⟩, rest⟩
    exact ⟨_, hl, _, hr, _, hv, _, hc, rest.symm⟩

/-! ### Whole snapshots -/

/-- The phases of the mixed voices are accepted. -/
def AcceptedPhases (u : State) : Prop := ∀ n : VoiceIndex, n.val < 6 → AcceptedPhase (u.voice n).phase

/-- Voice `v` with the noise fields of the voice that it is written over. -/
def Voice.keepingNoise (v old : Voice) : Voice := { v with noiseChannel := old.noiseChannel, noiseFrequency := old.noiseFrequency }

/-- Voice `n` after the snapshot of `u` is restored over voice `v` (R203): the noise fields of voices 0 to 3, and voices 6 and 7, are
kept. -/
def restoredVoice (u : State) (n : VoiceIndex) (v : Voice) : Voice :=
  if n.val < 4 then (u.voice n).keepingNoise v
  else if n.val < 6 then u.voice n
  else v

/-- The state after the fields of the snapshot of `u` are written into `s`. -/
def restoredInto (u s : State) : State :=
  { s with
    voices := Vector.ofFn fun n => restoredVoice u n (s.voice n)
    g := { u.g with contractViolation := s.g.contractViolation } }

theorem restoredInto_voice (u s : State) (n : VoiceIndex) : (restoredInto u s).voice n = restoredVoice u n (s.voice n) := by
  simp [State.voice, restoredInto]

/-- Two states with the same fields and the same voices are the same. -/
theorem State.ext_voices {s t : State} (rest : s = { t with voices := s.voices }) (voices : ∀ n, s.voice n = t.voice n) : s = t := by
  rw [rest, voices_ext (a := s.voices) (b := t.voices) voices]

/-- A record that holds the fields of a state is its snapshot. -/
theorem eq_takeSnapshot {record : Snapshot} {u : State}
    (voice : ∀ n : Fin 6, record.voice[n.val] = .ofVoice (u.voice (n.castLE (by decide))))
    (noise₄ : record.noise[0] = .ofVoice (u.voice 4)) (noise₅ : record.noise[1] = .ofVoice (u.voice 5))
    (left : record.mainVolumeLeft = some (.int u.g.mainVolumeLeft.toNat))
    (right : record.mainVolumeRight = some (.int u.g.mainVolumeRight.toNat))
    (latch : record.voiceLatch = some (.int u.g.voiceLatch.toNat))
    (cursor : record.waveWriteCursor = some (.int u.g.waveWriteCursor.toNat))
    (count : record.voiceCount = some (.int 6)) (length : record.waveLength = some (.int 32)) : record = takeSnapshot u := by
  have voices : record.voice = (takeSnapshot u).voice :=
    Vector.ext fun i inside => (voice ⟨i, inside⟩).trans (takeSnapshot_voice u ⟨i, inside⟩).symm
  have noises : record.noise = (takeSnapshot u).noise := Vector.ext fun i inside => by
    match i, inside with
    | 0, _ => exact noise₄
    | 1, _ => exact noise₅
  cases record
  exact Snapshot.mk.injEq .. ▸ ⟨voices, noises, left, right, latch, cursor, count, length⟩

/-- The voice record of a voice says nothing of its noise fields. -/
theorem VoiceRecord.ofVoice_keepingNoise (v old : Voice) : VoiceRecord.ofVoice (v.keepingNoise old) = .ofVoice v := rfl

/-- A voice record that is written back is that of the voice that it makes. -/
theorem restoreVoice_reads {n : VoiceIndex} {record : VoiceRecord} {s t : State} (h : restoreVoice n record s = some t) :
    record = .ofVoice (t.voice n) ∧ AcceptedPhase (t.voice n).phase ∧ ∀ m, m ≠ n → t.voice m = s.voice m := by
  obtain ⟨v, read, rfl⟩ := restoreVoice_writes h
  obtain ⟨fields, accepted, -⟩ := VoiceRecord.into_eq_some_iff.mp read
  rw [s.voice_setVoice_same]
  exact ⟨fields, accepted, fun m other => s.voice_setVoice_ne v other⟩

/-- A noise record that is written back is that of the voice that it makes, whose other fields are kept. -/
theorem restoreNoise_reads {n : VoiceIndex} {record : NoiseRecord} {s t : State} (h : restoreNoise n record s = some t) :
    record = .ofVoice (t.voice n) ∧ t.voice n = (s.voice n).keepingNoise (t.voice n) ∧ ∀ m, m ≠ n → t.voice m = s.voice m := by
  obtain ⟨v, read, rfl⟩ := restoreNoise_writes h
  obtain ⟨fields, voice⟩ := NoiseRecord.into_eq_some_iff.mp read
  rw [s.voice_setVoice_same]
  exact ⟨fields, voice, fun m other => s.voice_setVoice_ne v other⟩

/-- A record whose fields are written back is the snapshot of the state that they make, with accepted phases. -/
theorem restoreFields_reads {record : Snapshot} {s t : State} (h : restoreFields record s = some t) :
    record = takeSnapshot t ∧ AcceptedPhases t := by
  simp only [restoreFields, Option.bind_eq_bind, Option.bind_eq_some_iff, constantField, Option.ite_none_right_eq_some] at h
  obtain ⟨_, ⟨count, _⟩, _, ⟨length, _⟩, s₀, h₀, s₁, h₁, s₂, h₂, s₃, h₃, s₄, h₄, s₅, h₅, s₆, h₆, s₇, h₇, hg⟩ := h
  obtain ⟨r₀, p₀, -⟩ := restoreVoice_reads h₀
  obtain ⟨r₁, p₁, k₁⟩ := restoreVoice_reads h₁
  obtain ⟨r₂, p₂, k₂⟩ := restoreVoice_reads h₂
  obtain ⟨r₃, p₃, k₃⟩ := restoreVoice_reads h₃
  obtain ⟨r₄, p₄, k₄⟩ := restoreVoice_reads h₄
  obtain ⟨r₅, p₅, k₅⟩ := restoreVoice_reads h₅
  obtain ⟨n₄, v₄, k₆⟩ := restoreNoise_reads h₆
  obtain ⟨n₅, v₅, k₇⟩ := restoreNoise_reads h₇
  obtain ⟨⟨left, right, latch, cursor⟩, final⟩ := restoreGlobals_eq_some_iff.mp hg
  have voice (n : VoiceIndex) : t.voice n = s₇.voice n := by rw [final]; rfl
  have a₀ : t.voice 0 = s₀.voice 0 := by simp [voice, k₁, k₂, k₃, k₄, k₅, k₆, k₇]
  have a₁ : t.voice 1 = s₁.voice 1 := by simp [voice, k₂, k₃, k₄, k₅, k₆, k₇]
  have a₂ : t.voice 2 = s₂.voice 2 := by simp [voice, k₃, k₄, k₅, k₆, k₇]
  have a₃ : t.voice 3 = s₃.voice 3 := by simp [voice, k₄, k₅, k₆, k₇]
  have a₄ : t.voice 4 = (s₄.voice 4).keepingNoise (s₆.voice 4) := by rw [voice, k₇ 4 (by decide), v₄, k₅ 4 (by decide)]; rfl
  have a₅ : t.voice 5 = (s₅.voice 5).keepingNoise (s₇.voice 5) := by rw [voice, v₅, k₆ 5 (by decide)]; rfl
  constructor
  · have voices : ∀ n : Fin 6, record.voice[n.val] = .ofVoice (t.voice (n.castLE (by decide))) := fun n => by
      match n with
      | 0 => exact r₀.trans (congrArg VoiceRecord.ofVoice a₀.symm)
      | 1 => exact r₁.trans (congrArg VoiceRecord.ofVoice a₁.symm)
      | 2 => exact r₂.trans (congrArg VoiceRecord.ofVoice a₂.symm)
      | 3 => exact r₃.trans (congrArg VoiceRecord.ofVoice a₃.symm)
      | 4 => exact (r₄.trans (VoiceRecord.ofVoice_keepingNoise _ _).symm).trans (congrArg VoiceRecord.ofVoice a₄.symm)
      | 5 => exact (r₅.trans (VoiceRecord.ofVoice_keepingNoise _ _).symm).trans (congrArg VoiceRecord.ofVoice a₅.symm)
    have noise₄ : record.noise[0] = .ofVoice (t.voice 4) := by rw [n₄, voice, k₇ 4 (by decide)]
    have noise₅ : record.noise[1] = .ofVoice (t.voice 5) := by rw [n₅, voice]
    exact eq_takeSnapshot voices noise₄ noise₅ left right latch cursor count length
  · intro n mixed
    match n with
    | 0 => rw [a₀]; exact p₀
    | 1 => rw [a₁]; exact p₁
    | 2 => rw [a₂]; exact p₂
    | 3 => rw [a₃]; exact p₃
    | 4 => rw [a₄]; exact p₄
    | 5 => rw [a₅]; exact p₅

/-- The fields of a mixed voice, written back. -/
theorem restoreVoice_into {v : Voice} (accepted : AcceptedPhase v.phase) (s : State) (n : VoiceIndex) :
    restoreVoice n (.ofVoice v) s = some (s.updateVoice n v.keepingNoise) := by
  have read : VoiceRecord.into (.ofVoice v) (s.voice n) = some (v.keepingNoise (s.voice n)) :=
    VoiceRecord.into_eq_some_iff.mpr ⟨rfl, accepted, rfl, rfl⟩
  rw [restoreVoice, read]
  rfl

/-- The noise fields of a voice, written back. -/
theorem restoreNoise_into (v : Voice) (s : State) (n : VoiceIndex) :
    restoreNoise n (.ofVoice v) s = some (s.updateVoice n (Voice.keepingNoise · v)) := by
  have read : NoiseRecord.into (.ofVoice v) (s.voice n) = some ((s.voice n).keepingNoise v) :=
    NoiseRecord.into_eq_some_iff.mpr ⟨rfl, rfl⟩
  rw [restoreNoise, read]
  rfl

theorem restoreGlobals_into (u s : State) :
    restoreGlobals (takeSnapshot u) s = some (s.updateGlobals fun g => { u.g with contractViolation := g.contractViolation }) :=
  restoreGlobals_eq_some_iff.mpr ⟨⟨rfl, rfl, rfl, rfl⟩, rfl⟩

/-- Writing back the fields of a snapshot. -/
theorem restoreFields_takeSnapshot {u : State} (accepted : AcceptedPhases u) (s : State) :
    restoreFields (takeSnapshot u) s = some (restoredInto u s) := by
  have count : constantField 6 (takeSnapshot u).voiceCount = some () := if_pos rfl
  have length : constantField 32 (takeSnapshot u).waveLength = some () := if_pos rfl
  have records : (takeSnapshot u).voice = #v[.ofVoice (u.voice 0), .ofVoice (u.voice 1), .ofVoice (u.voice 2), .ofVoice (u.voice 3),
    .ofVoice (u.voice 4), .ofVoice (u.voice 5)] := rfl
  have noise : (takeSnapshot u).noise = #v[.ofVoice (u.voice 4), .ofVoice (u.voice 5)] := rfl
  simp only [restoreFields, count, length, records, noise, Vector.getElem_mk, List.getElem_toArray, List.getElem_cons_zero,
    List.getElem_cons_succ, restoreVoice_into, restoreNoise_into, restoreGlobals_into, accepted 0 (by decide), accepted 1 (by decide),
    accepted 2 (by decide), accepted 3 (by decide), accepted 4 (by decide), accepted 5 (by decide), Option.bind_eq_bind,
    Option.bind_some, Option.some.injEq]
  refine State.ext_voices rfl fun n => ?_
  rw [restoredInto_voice]
  fin_cases n
  all_goals simp [State.voice_updateVoice, restoredVoice, Voice.keepingNoise]

/-- `restore` of the snapshot of a state (R203). -/
theorem restoreSnapshot_takeSnapshot {u : State} (accepted : AcceptedPhases u) (s : State) :
    restoreSnapshot (takeSnapshot u) s = .next { s with
      voices := (restoredInto u s).voices
      g := { u.g with contractViolation := !s.queue.isEmpty || s.g.contractViolation }
      queue := [] } := by
  rw [restoreSnapshot, restoreFields_takeSnapshot accepted, violationIf_eq]
  rfl

/-- `restore` answers a next state for the snapshot of a state with accepted phases, and refuses any other record. -/
theorem restoreSnapshot_cases (record : Snapshot) :
    (∃ u, record = takeSnapshot u ∧ AcceptedPhases u) ∨ ∀ s, restoreSnapshot record s = .refused .badSnapshot := by
  by_cases read : ∃ u, record = takeSnapshot u ∧ AcceptedPhases u
  · exact .inl read
  · refine .inr fun s => ?_
    rw [restoreSnapshot]
    split
    · next t fields => exact absurd ⟨t, restoreFields_reads fields⟩ read
    · rfl

/-! ### Accepted records (R204) -/

theorem exists_toNat_eq {w : Nat} {i : Int} (low : 0 ≤ i) (high : i < 2 ^ w) : ∃ b : BitVec w, i = b.toNat :=
  ⟨BitVec.ofInt w i, (toNat_ofInt_of_fits low high).symm⟩

theorem exists_toInt_eq {i : Int} (low : -32768 ≤ i) (high : i ≤ 32767) : ∃ x : Sample, i = x.toInt :=
  ⟨wrap16 i, sampleOfInt_eq_some_iff.mp (if_pos ⟨low, high⟩)⟩

theorem exists_wave_eq {l : List Int} (length : l.length = 32) (range : ∀ x ∈ l, -32768 ≤ x ∧ x ≤ 32767) :
    ∃ w : Vector Sample 32, l = w.toList.map BitVec.toInt := by
  refine ⟨⟨(l.map wrap16).toArray, by simp [length]⟩, ?_⟩
  have back : ∀ x ∈ l, (wrap16 x).toInt = x := fun x inside => by
    obtain ⟨y, rfl⟩ := exists_toInt_eq (range x inside).1 (range x inside).2
    rw [wrap16_toInt]
  simp only [Vector.toList_mk, List.map_map]
  exact ((List.map_congr_left back).trans (List.map_id l)).symm

theorem sample_range (x : Sample) : -32768 ≤ x.toInt ∧ x.toInt ≤ 32767 := by
  have low := x.le_toInt
  have high := x.toInt_lt
  omega

theorem acceptedVoice_iff (record : VoiceRecord) : AcceptedVoice record ↔ ∃ v, record = .ofVoice v ∧ AcceptedPhase v.phase := by
  constructor
  · rintro ⟨frequency, panning, volume, ddaValue, enabled, dda, phase, wave, rfl, hf, hp, hv, hs, accepted, length, range⟩
    obtain ⟨frequency, rfl⟩ := exists_toNat_eq (w := 12) hf.1 (by omega)
    obtain ⟨panning, rfl⟩ := exists_toNat_eq (w := 8) hp.1 (by omega)
    obtain ⟨volume, rfl⟩ := exists_toNat_eq (w := 5) hv.1 (by omega)
    obtain ⟨ddaValue, rfl⟩ := exists_toInt_eq hs.1 hs.2
    obtain ⟨wave, rfl⟩ := exists_wave_eq length range
    exact ⟨{ Voice.reset with frequency, panning, volume, ddaValue, enabled, dda, phase, wave }, rfl, accepted⟩
  · rintro ⟨v, rfl, accepted⟩
    have hf := v.frequency.isLt
    have hp := v.panning.isLt
    have hv := v.volume.isLt
    refine ⟨_, _, _, _, _, _, _, _, rfl, by omega, by omega, by omega, sample_range _, accepted, by simp, ?_⟩
    simp only [List.mem_map]
    rintro _ ⟨x, -, rfl⟩
    exact sample_range x

theorem acceptedNoise_iff (record : NoiseRecord) : AcceptedNoise record ↔ ∃ v, record = .ofVoice v := by
  constructor
  · rintro ⟨flag, frequency, rfl, low⟩
    obtain ⟨n, rfl⟩ := Int.eq_ofNat_of_zero_le low
    exact ⟨{ Voice.reset with noiseChannel := flag, noiseFrequency := n }, rfl⟩
  · rintro ⟨v, rfl⟩
    exact ⟨_, _, rfl, Int.natCast_nonneg _⟩

theorem acceptedUnsigned_iff {w : Nat} {top : Int} (last : top + 1 = 2 ^ w) (x : Option FieldValue) :
    AcceptedUnsigned top x ↔ ∃ b : BitVec w, x = some (.int b.toNat) := by
  constructor
  · rintro ⟨i, rfl, low, high⟩
    obtain ⟨b, rfl⟩ := exists_toNat_eq (w := w) low (by omega)
    exact ⟨b, rfl⟩
  · rintro ⟨b, rfl⟩
    have fits : (b.toNat : Int) < 2 ^ w := by exact_mod_cast b.isLt
    exact ⟨_, rfl, Int.natCast_nonneg _, by omega⟩

/-- The snapshots that R204 accepts are those of the states with accepted phases. -/
theorem acceptedSnapshot_iff (record : Snapshot) : AcceptedSnapshot record ↔ ∃ u, record = takeSnapshot u ∧ AcceptedPhases u := by
  unfold AcceptedSnapshot
  simp only [acceptedVoice_iff, acceptedNoise_iff, acceptedUnsigned_iff (w := 4) (top := 15) (by decide),
    acceptedUnsigned_iff (w := 3) (top := 7) (by decide), acceptedUnsigned_iff (w := 5) (top := 31) (by decide)]
  constructor
  · rintro ⟨count, length, voice, noise, ⟨left, hl⟩, ⟨right, hr⟩, ⟨latch, hv⟩, ⟨cursor, hc⟩⟩
    choose v fields accepted using voice
    choose w noises using noise
    refine ⟨{ State.reset with
      voices := #v[v 0, v 1, v 2, v 3, (v 4).keepingNoise (w 0), (v 5).keepingNoise (w 1), Voice.reset, Voice.reset]
      g := ⟨latch, left, right, cursor, false⟩ }, eq_takeSnapshot (fun n => ?_) (noises 0) (noises 1) hl hr hv hc count length,
      fun n mixed => ?_⟩
    · rw [fields]
      match n with
      | 0 | 1 | 2 | 3 | 4 | 5 => rfl
    · match n with
      | 0 => exact accepted 0
      | 1 => exact accepted 1
      | 2 => exact accepted 2
      | 3 => exact accepted 3
      | 4 => exact accepted 4
      | 5 => exact accepted 5
  · rintro ⟨u, rfl, accepted⟩
    refine ⟨rfl, rfl, fun n => ⟨_, takeSnapshot_voice u n, accepted _ n.isLt⟩, fun n => ?_, ⟨_, rfl⟩, ⟨_, rfl⟩, ⟨_, rfl⟩, ⟨_, rfl⟩⟩
    match n with
    | 0 => exact ⟨u.voice 4, rfl⟩
    | 1 => exact ⟨u.voice 5, rfl⟩

theorem beginOp_restore (record : Snapshot) (s : State) : beginOp (.restore record) s = restoreSnapshot record s := rfl

/-- Settles O34: the accepted records are the snapshots of states, which `restore` writes back, and it refuses every other. -/
theorem restoreAcceptsExactlyTheWellTypedSnapshots : Obligations.RestoreAcceptsExactlyTheWellTypedSnapshots := by
  unfold Obligations.RestoreAcceptsExactlyTheWellTypedSnapshots
  intro record s
  have answers (r : State) : AcceptedSnapshot record → ∃ t, restoreSnapshot record r = .next t := fun accepted => by
    obtain ⟨u, rfl, phases⟩ := (acceptedSnapshot_iff record).mp accepted
    exact ⟨_, restoreSnapshot_takeSnapshot phases r⟩
  have refuses (r : State) (refused : ¬ AcceptedSnapshot record) : restoreSnapshot record r = .refused .badSnapshot :=
    (restoreSnapshot_cases record).resolve_left (mt (acceptedSnapshot_iff record).mpr refused) r
  refine ⟨answers s, refuses s, fun rest wf idle call => ⟨fun accepted => ?_, fun refused => ?_⟩⟩
  · obtain ⟨t, next⟩ := answers { s with calls := rest } accepted
    exact ⟨t, next, (step_idle_call wf idle call).trans next⟩
  · exact (step_idle_call wf idle call).trans (refuses _ refused)

/-- Settles O35, from what the restored voices are. -/
theorem snapshotRestoresTheMixedVoices : Obligations.SnapshotRestoresTheMixedVoices := by
  unfold Obligations.SnapshotRestoresTheMixedVoices
  intro s t accepted
  refine ⟨_, restoreSnapshot_takeSnapshot accepted t, fun n low => ?_, ?_, ?_, ?_, ?_, ?_, fun rest wf idle call => ?_⟩
  · exact (restoredInto_voice s t n).trans (if_pos low)
  · exact restoredInto_voice s t 4
  · exact restoredInto_voice s t 5
  · exact restoredInto_voice s t 6
  · exact restoredInto_voice s t 7
  · rw [Bool.or_comm]
  · rw [step_idle_call wf idle call, beginOp_restore, restoreSnapshot_takeSnapshot accepted]
    rfl

end Sys2Proof.Machine
end

section
/-!
PROOFS. What every step keeps (10_state.md rules R26 and R37, 60_exceptions.md rule R221): the kinds of step, said once, and the three invariants
over them.
-/

namespace Sys2Proof.Machine

/-! ### The kinds of step -/

/-- What a step that answers a next state is: the core waits, begins a call, or takes one step of `beginFrame` or `getSamples`. -/
inductive StepTo (s : State) : State → Prop where
  | wait (idle : s.activity = .idle) : StepTo s s
  | call {op : HostOp} {rest : List HostCall} {t : State} (idle : s.activity = .idle) (call : s.calls = ⟨op, none⟩ :: rest)
      (begun : beginOp op { s with calls := rest } = .next t) : StepTo s t
  | origin {c : Int} : StepTo s { s with time := { s.time with origin := c }, activity := .idle }
  | drain {c : Int} {cmd : Command} {rest : List Command} (act : s.activity = .draining c) :
      StepTo s (written (decodeCommand cmd.r cmd.v) { s with queue := rest })
  | finish {elapsed : Int} {start : Nat} {out : List Sample} (act : s.activity = .mixing elapsed start out) :
      StepTo s (finishSamples start out s)
  | splice {elapsed : Int} {start : Nat} {out : List Sample} {cmd : Command} {rest : List Command}
      (act : s.activity = .mixing elapsed start out) :
      StepTo s (written (decodeCommand cmd.r cmd.v) (mixToCommand elapsed start out cmd { s with queue := rest }))

theorem step_cases {s t : State} (h : step s = .next t) : StepTo s t := by
  have wf : s.cfg.wf = true := by
    by_contra broken
    rw [step_of_not_wf (Bool.eq_false_iff.mpr broken)] at h
    cases h
  cases act : s.activity with
  | idle =>
    cases calls : s.calls with
    | nil =>
      cases (step_idle_wait wf act calls).symm.trans h
      exact .wait act
    | cons call rest =>
      obtain ⟨op, inside⟩ := call
      cases inside with
      | none => exact .call act calls ((step_idle_call wf act calls).symm.trans h)
      | some inner => cases (step_idle_reentrant wf act calls).symm.trans h
  | draining c =>
    cases queue : s.queue with
    | nil =>
      obtain rfl := Host.Outcome.next.inj ((step_draining_end wf act queue).symm.trans h)
      exact .origin
    | cons cmd rest =>
      obtain rfl := exec_next_iff.mp ((step_draining_command wf act queue).symm.trans h)
      exact .drain act
  | mixing elapsed start out =>
    cases queue : s.queue with
    | nil =>
      obtain rfl := Host.Outcome.next.inj ((step_mixing_end wf act queue).symm.trans h)
      exact .finish act
    | cons cmd rest =>
      obtain rfl := exec_next_iff.mp ((step_mixing_command wf act queue).symm.trans h)
      exact .splice act

/-! ### What a host operation writes -/

/-- What a host operation that is not refused makes of `s`, operation by operation (R101 to R105, R200, R203, R241). -/
inductive OpTo (s : State) : HostOp → State → Prop where
  | beginFrame (c : Int) : OpTo s (.beginFrame c) { s with activity := .draining c }
  | endFrame (c : Int) : OpTo s (.endFrame c) { s with time := { s.time with last := c } }
  | writeRegister (register : Nat) (value c : Int) (cmd : Command) : OpTo s (.writeRegister register value c) (s.push cmd)
  | discardSamples : OpTo s .discardSamples s
  | getSamples (out : List Sample) (even : out.length % 2 = 0) : OpTo s (.getSamples out) { s with
      g := { s.g with contractViolation := decide (s.time.last - s.time.origin ≤ 0) || s.g.contractViolation }
      activity := .mixing (clampElapsed (s.time.last - s.time.origin)) 0 out }
  | snapshot : OpTo s .snapshot (s.handOver (.snapshot (takeSnapshot s)))
  | restore (record : Snapshot) (u : State) : OpTo s (.restore record) { s with
      voices := (restoredInto u s).voices
      g := { u.g with contractViolation := !s.queue.isEmpty || s.g.contractViolation }
      queue := [] }
  | setMute (n : VoiceIndex) (b : Bool) (mute : Vector Bool 8) : OpTo s (.setMute n b) { s with host := { s.host with mute := mute } }
  | setAmp (a : Int) (amp : BitVec 15) : OpTo s (.setAmp a) { s with host := { s.host with amp := amp } }
  | reset : OpTo s .reset (resetCore s)

theorem beginOp_cases {op : HostOp} {s t : State} (h : beginOp op s = .next t) : OpTo s op t := by
  cases op with
  | beginFrame c => cases h; exact .beginFrame c
  | endFrame c => cases h; exact .endFrame c
  | discardSamples => cases h; exact .discardSamples
  | snapshot => cases h; exact .snapshot
  | reset => cases h; exact .reset
  | setMute n b => cases h; exact .setMute n b _
  | writeRegister register value c =>
    simp only [beginOp, writeRegister] at h
    split at h
    · cases h; exact .writeRegister register value c _
    · cases h
  | setAmp a =>
    simp only [beginOp, setAmp] at h
    split at h
    · cases h; exact .setAmp a _
    · cases h
  | getSamples out =>
    by_cases odd : out.length % 2 = 1
    · rw [beginOp, beginSamples, if_pos odd] at h
      cases h
    · have even : out.length % 2 = 0 := by omega
      cases (beginSamples_even even s).symm.trans h
      exact .getSamples out even
  | restore record =>
    obtain ⟨u, rfl, accepted⟩ | refused := restoreSnapshot_cases record
    · cases (restoreSnapshot_takeSnapshot accepted s).symm.trans h
      exact .restore _ u
    · cases (refused s).symm.trans h

/-! ### The safe state (R26, R55, R105) -/

/-- The first part of `SafeState`: voices 0 to 3 are no noise channels (R26). -/
def LowVoicesQuiet (s : State) : Prop := ∀ n : VoiceIndex, n.val < 4 → (s.voice n).noiseChannel = false

/-- `NOISE` is the one command that writes a noise flag, and writes no set one to a low voice (R138). -/
theorem LowVoicesQuiet.written {s : State} (h : LowVoicesQuiet s) (i : Instr) : LowVoicesQuiet (written i s) := by
  intro n low
  by_cases other : n = writtenVoice i s
  · rw [other, written_voice_same]
    rw [other] at low
    have before := h (writtenVoice i s) low
    cases i with
    | noise ne selector =>
      have unhonoured := (noiseHonoured_eq_true_iff ne s.latched).not.mpr fun honoured => absurd honoured.2 (Nat.not_le.mpr low)
      exact Bool.eq_false_iff.mpr unhonoured
    | wave u => simp only [voiceWrite]; split <;> exact before
    | _ => exact before
  · rw [written_voice_ne other]
    exact h n low

/-- Mixing a segment writes phases only. -/
theorem mixSegment_keeps {a b : Nat} {s t : State} {out out' : List Sample} (h : mixSegment a b s out = (t, out')) :
    t.g = s.g ∧ ∀ n, t.voice n = { s.voice n with phase := (t.voice n).phase } := by
  obtain ⟨u, d, adds⟩ := adds_list mixedVoices a b s
  obtain ⟨frame, -⟩ := mixVoices_writes mixedVoices a b s out
  rw [mixSegment] at h
  rw [h] at frame
  obtain ⟨rfl, -⟩ := Prod.mk.inj ((adds.mixes out).symm.trans h)
  exact ⟨by rw [show u = _ from frame], adds.phases⟩

theorem mixToCommand_eq (elapsed : Int) (start : Nat) (out : List Sample) (cmd : Command) (s : State) :
    ∃ position broken mixed out', mixSegment start position (violationIf broken .positionOutOfRange s) out = (mixed, out') ∧
      mixToCommand elapsed start out cmd s = { mixed with activity := .mixing elapsed position out' } := by
  refine ⟨clampPosition (rawPosition cmd.timeOffset out.length elapsed) start out.length,
    positionBroken (rawPosition cmd.timeOffset out.length elapsed) start out.length, _, _, Prod.mk.eta.symm, ?_⟩
  simp only [mixToCommand]

theorem finishSamples_eq (start : Nat) (out : List Sample) (s : State) :
    ∃ mixed out', mixSegment start out.length s out = (mixed, out') ∧
      finishSamples start out s = { mixed with activity := .idle }.handOver (.samples out') := by
  refine ⟨_, _, Prod.mk.eta.symm, ?_⟩
  simp only [finishSamples]

theorem LowVoicesQuiet.mixToCommand {s : State} (h : LowVoicesQuiet s) (elapsed : Int) (start : Nat) (out : List Sample)
    (cmd : Command) : LowVoicesQuiet (Machine.mixToCommand elapsed start out cmd s) := by
  obtain ⟨position, broken, mixed, out', segment, eq⟩ := mixToCommand_eq elapsed start out cmd s
  rw [eq]
  refine fun n low => (congrArg Voice.noiseChannel ((mixSegment_keeps segment).2 n)).trans ?_
  exact (congrArg Voice.noiseChannel (s.voice_violationIf _ _ n)).trans (h n low)

theorem LowVoicesQuiet.finishSamples {s : State} (h : LowVoicesQuiet s) (start : Nat) (out : List Sample) :
    LowVoicesQuiet (Machine.finishSamples start out s) := by
  obtain ⟨mixed, out', segment, eq⟩ := finishSamples_eq start out s
  rw [eq]
  exact fun n low => (congrArg Voice.noiseChannel ((mixSegment_keeps segment).2 n)).trans (h n low)

theorem LowVoicesQuiet.restoredInto {s : State} (h : LowVoicesQuiet s) (u : State) : LowVoicesQuiet (restoredInto u s) := by
  intro n low
  rw [restoredInto_voice, restoredVoice, if_pos low]
  exact h n low

theorem SafeState.quiet {s : State} (h : SafeState s) : LowVoicesQuiet s := h.1

theorem safeState_of_idle {s : State} (quiet : LowVoicesQuiet s) (idle : s.activity = .idle) : SafeState s :=
  ⟨quiet, by rw [idle]; trivial⟩

theorem safeState_of_draining {s : State} {c : Int} (quiet : LowVoicesQuiet s) (act : s.activity = .draining c) : SafeState s :=
  ⟨quiet, by rw [act]; trivial⟩

theorem safeState_of_mixing {s : State} {elapsed : Int} {start : Nat} {out : List Sample} (quiet : LowVoicesQuiet s)
    (act : s.activity = .mixing elapsed start out) (positive : 1 ≤ elapsed) (cursor : start % 2 = 0) (even : out.length % 2 = 0)
    (inside : start ≤ out.length) : SafeState s :=
  ⟨quiet, by rw [act]; exact ⟨positive, cursor, even, inside⟩⟩

theorem OpTo.safe {s t : State} {op : HostOp} (h : OpTo s op t) (quiet : LowVoicesQuiet s) (idle : s.activity = .idle) :
    SafeState t := by
  cases h with
  | beginFrame c => exact safeState_of_draining quiet rfl
  | getSamples out even => exact safeState_of_mixing quiet rfl (clampElapsed_pos _) rfl even (Nat.zero_le _)
  | restore record u => exact safeState_of_idle (quiet.restoredInto u) idle
  | reset => exact safeState_of_idle (fun n _ => congrArg Voice.noiseChannel (reset_voice n)) rfl
  | endFrame c => exact safeState_of_idle quiet idle
  | writeRegister register value c cmd => exact safeState_of_idle quiet idle
  | discardSamples => exact safeState_of_idle quiet idle
  | snapshot => exact safeState_of_idle quiet idle
  | setMute n b mute => exact safeState_of_idle quiet idle
  | setAmp a amp => exact safeState_of_idle quiet idle

/-- Settles O54: each kind of step keeps the noise flags of voices 0 to 3, and the clamp of R105 keeps the segment cursor. -/
theorem everyStepKeepsTheSafeState : Obligations.EveryStepKeepsTheSafeState := by
  unfold Obligations.EveryStepKeepsTheSafeState
  intro s t safe next
  have quiet := safe.quiet
  cases step_cases next with
  | wait idle => exact safe
  | call idle call begun => exact (beginOp_cases begun).safe quiet idle
  | origin => exact safeState_of_idle quiet rfl
  | drain act => exact safeState_of_draining (LowVoicesQuiet.written (s := { s with queue := _ }) quiet _) act
  | finish act => exact safeState_of_idle (quiet.finishSamples _ _) rfl
  | @splice elapsed start out cmd rest act =>
    obtain ⟨positive, cursor, even, inside⟩ : 1 ≤ elapsed ∧ start % 2 = 0 ∧ out.length % 2 = 0 ∧ start ≤ out.length := by
      have relations := safe.2
      rwa [act] at relations
    have spliced := (LowVoicesQuiet.mixToCommand (s := { s with queue := rest }) quiet elapsed start out cmd).written
      (decodeCommand cmd.r cmd.v)
    obtain ⟨voices, flag, out', length, writes⟩ := mixToCommand_writes elapsed start out cmd { s with queue := rest }
    have position := clampPosition_bounds (rawPosition cmd.timeOffset out.length elapsed) inside
    rw [writes] at spliced ⊢
    exact safeState_of_mixing spliced rfl positive (clampPosition_even (rawPosition_even _ _ _) cursor even)
      (by rw [length]; exact even) (by rw [length]; exact position.2)

/-! ### The violation flag and the host's side -/

theorem mixToCommand_contractViolation {elapsed : Int} {start : Nat} {out : List Sample} {cmd : Command} {s : State}
    (h : s.g.contractViolation = true) : (mixToCommand elapsed start out cmd s).g.contractViolation = true := by
  obtain ⟨position, broken, mixed, out', segment, eq⟩ := mixToCommand_eq elapsed start out cmd s
  have flagged : mixed.g.contractViolation = (broken || s.g.contractViolation) := by
    rw [(mixSegment_keeps segment).1, violationIf_eq]
  rw [eq]
  exact flagged.trans (by rw [h, Bool.or_true])

theorem finishSamples_g (start : Nat) (out : List Sample) (s : State) : (finishSamples start out s).g = s.g := by
  obtain ⟨voices, out', -, writes⟩ := finishSamples_writes start out s
  rw [writes]

theorem written_contractViolation (i : Instr) (s : State) : (written i s).g.contractViolation = s.g.contractViolation :=
  globalWrite_contractViolation i s s.g

theorem OpTo.contractViolation {s t : State} {op : HostOp} (h : OpTo s op t) (flag : s.g.contractViolation = true)
    (other : op ≠ .reset) : t.g.contractViolation = true := by
  cases h with
  | reset => exact absurd rfl other
  | getSamples out even => simp [flag]
  | restore record u => simp [flag]
  | _ => exact flag

/-- Settles O55: the kinds of step that write the flag set it, but for `reset`. -/
theorem violationFlagIsSticky : Obligations.ViolationFlagIsSticky := by
  unfold Obligations.ViolationFlagIsSticky
  intro s t next flag
  cases step_cases next with
  | wait idle => exact .inl flag
  | @call op rest t idle call begun =>
    by_cases reset : op = .reset
    · exact .inr ⟨idle, rest, reset ▸ call⟩
    · exact .inl ((beginOp_cases begun).contractViolation flag reset)
  | origin => exact .inl flag
  | drain act => exact .inl ((written_contractViolation _ _).trans flag)
  | finish act => exact .inl (by rw [finishSamples_g]; exact flag)
  | splice act => exact .inl ((written_contractViolation _ _).trans (mixToCommand_contractViolation flag))

theorem OpTo.config {s t : State} {op : HostOp} (h : OpTo s op t) : t.cfg = s.cfg ∧ s.outbox <+: t.outbox := by
  cases h with
  | snapshot => exact ⟨rfl, List.prefix_append _ _⟩
  | _ => exact ⟨rfl, List.prefix_rfl⟩

/-- Settles O56: only `snapshot` and the end of `getSamples` write the outbox, and both append. -/
theorem configurationIsNeverWritten : Obligations.ConfigurationIsNeverWritten := by
  unfold Obligations.ConfigurationIsNeverWritten
  intro s t next
  cases step_cases next with
  | call idle call begun => exact (beginOp_cases begun).config
  | wait idle => exact ⟨rfl, List.prefix_rfl⟩
  | origin => exact ⟨rfl, List.prefix_rfl⟩
  | drain act => exact ⟨rfl, List.prefix_rfl⟩
  | @finish elapsed start out act =>
    obtain ⟨voices, out', -, writes⟩ := finishSamples_writes start out s
    rw [writes]
    exact ⟨rfl, List.prefix_append _ _⟩
  | @splice elapsed start out cmd rest act =>
    obtain ⟨voices, flag, out', -, writes⟩ := mixToCommand_writes elapsed start out cmd { s with queue := rest }
    rw [writes]
    exact ⟨rfl, List.prefix_rfl⟩

end Sys2Proof.Machine
end

section
/-!
PROOFS. What the output can depend on (10_state.md rules R20 and R26, 43_serialization.md rule R205, 60_exceptions.md rule R221): two states that
agree on it answer every step alike. The two relations of the statements, `SameAudible` and `SameMixed`, are one relation with and without the
`dda` flags of voices 6 and 7.
-/

namespace Sys2Proof.Machine

/-! ### The relation -/

/-- Voice `n` of two states as far as the output can depend on it; `flags` says whether the `dda` flags of voices 6 and 7 count. -/
def VoiceAgrees (flags : Prop) (n : VoiceIndex) (v w : Voice) : Prop :=
  (n.val < 4 → v.audible = w.audible) ∧ (4 ≤ n.val → n.val < 6 → v = w) ∧ (6 ≤ n.val → flags → v.dda = w.dda)

/-- The global registers of two states, but for the violation flag. -/
def GlobalsAgree (g h : Globals) : Prop := h = { g with contractViolation := h.contractViolation }

/-- `t` is `s` but for voices and global registers that agree with those of `s`. -/
def Agrees (flags : Prop) (s t : State) : Prop :=
  ∃ vs g, t = { s with voices := vs, g := g } ∧ GlobalsAgree s.g t.g ∧ ∀ n : VoiceIndex, VoiceAgrees flags n (s.voice n) (t.voice n)

theorem agrees_iff (flags : Prop) (s t : State) :
    Agrees flags s t ↔ SameMixed s t ∧ (flags → (s.voice 6).dda = (t.voice 6).dda ∧ (s.voice 7).dda = (t.voice 7).dda) := by
  constructor
  · rintro ⟨vs, g, rfl, globals, voices⟩
    exact ⟨⟨fun n => (voices n).1, (voices 4).2.1 (by decide) (by decide), (voices 5).2.1 (by decide) (by decide),
      congrArg (fun g' => { s with voices := vs, g := g' }) globals.symm⟩,
      fun h => ⟨(voices 6).2.2 (by decide) h, (voices 7).2.2 (by decide) h⟩⟩
  · rintro ⟨⟨low, four, five, rest⟩, dda⟩
    refine ⟨t.voices, _, rest.symm, congrArg State.g rest.symm, fun n => ⟨low n, fun ge lt => ?_, fun ge h => ?_⟩⟩
    · obtain rfl | rfl : n = 4 ∨ n = 5 := by simp only [Fin.ext_iff]; omega
      · exact four
      · exact five
    · obtain rfl | rfl : n = 6 ∨ n = 7 := by simp only [Fin.ext_iff]; omega
      · exact (dda h).1
      · exact (dda h).2

theorem sameMixed_iff_agrees (s t : State) : SameMixed s t ↔ Agrees False s t := by
  rw [agrees_iff]
  exact ⟨fun h => ⟨h, False.elim⟩, fun h => h.1⟩

theorem sameAudible_iff_agrees (s t : State) : SameAudible s t ↔ Agrees True s t := by
  rw [agrees_iff, sameAudible_iff]
  exact and_congr_right fun _ => ⟨fun h _ => h, fun h => h trivial⟩

theorem VoiceAgrees.refl (flags : Prop) (n : VoiceIndex) (v : Voice) : VoiceAgrees flags n v v :=
  ⟨fun _ => rfl, fun _ _ => rfl, fun _ _ => rfl⟩

theorem Agrees.refl (flags : Prop) (s : State) : Agrees flags s s :=
  ⟨s.voices, s.g, rfl, rfl, fun n => .refl flags n _⟩

/-- A voice without its noise frequency. -/
def Voice.withoutFrequency (v : Voice) : Voice := { v with noiseFrequency := 0 }

theorem Voice.audible_withoutFrequency (v : Voice) : v.audible.withoutFrequency = v.withoutFrequency := by
  unfold Voice.audible
  split <;> rfl

theorem noiseChannel_of_withoutFrequency {v w : Voice} (h : v.withoutFrequency = w.withoutFrequency) :
    v.noiseChannel = w.noiseChannel := (congrArg Voice.noiseChannel h :)

theorem dda_of_withoutFrequency {v w : Voice} (h : v.withoutFrequency = w.withoutFrequency) : v.dda = w.dda :=
  (congrArg Voice.dda h :)

theorem audible_of_tone {v : Voice} (h : v.noiseChannel = false) : v.audible = v.withoutFrequency := if_neg (by simp [h])

theorem audible_of_noise {v : Voice} (h : v.noiseChannel = true) : v.audible = v := if_pos h

/-- Two voices are audibly the same when they are the same but for a noise frequency without its flag. -/
theorem audible_eq_iff (v w : Voice) :
    v.audible = w.audible ↔
      v.withoutFrequency = w.withoutFrequency ∧ (v.noiseChannel = true → v.noiseFrequency = w.noiseFrequency) := by
  constructor
  · intro same
    have fields : v.withoutFrequency = w.withoutFrequency := by
      rw [← v.audible_withoutFrequency, same, w.audible_withoutFrequency]
    refine ⟨fields, fun flag => ?_⟩
    have flag' : w.noiseChannel = true := (noiseChannel_of_withoutFrequency fields).symm.trans flag
    rw [audible_of_noise flag, audible_of_noise flag'] at same
    rw [same]
  · rintro ⟨fields, frequency⟩
    have flags : v.noiseChannel = w.noiseChannel := noiseChannel_of_withoutFrequency fields
    cases flag : v.noiseChannel with
    | false => rw [audible_of_tone flag, audible_of_tone (flags.symm.trans flag), fields]
    | true =>
      rw [audible_of_noise flag, audible_of_noise (flags.symm.trans flag)]
      exact congrArg₂ (fun (u : Voice) f => { u with noiseFrequency := f }) fields (frequency flag)

/-- A mixed voice agrees in all that the mixer reads. -/
theorem VoiceAgrees.audible {flags : Prop} {n : VoiceIndex} {v w : Voice} (h : VoiceAgrees flags n v w) (mixed : n.val < 6) :
    v.audible = w.audible := by
  by_cases low : n.val < 4
  · exact h.1 low
  · rw [h.2.1 (Nat.le_of_not_lt low) mixed]

theorem VoiceAgrees.dda {flags : Prop} {n : VoiceIndex} {v w : Voice} (h : VoiceAgrees flags n v w) (mixed : n.val < 6) :
    v.dda = w.dda :=
  dda_of_withoutFrequency ((audible_eq_iff v w).mp (h.audible mixed)).1

/-- Writing agreeing voices `n` keeps the agreement. -/
theorem Agrees.setVoice {flags : Prop} {s t : State} (h : Agrees flags s t) {n : VoiceIndex} {v w : Voice}
    (voice : VoiceAgrees flags n v w) : Agrees flags (s.setVoice n v) (t.setVoice n w) := by
  obtain ⟨vs, g, rfl, globals, voices⟩ := h
  refine ⟨_, g, rfl, globals, fun m => ?_⟩
  rw [State.voice_setVoice, State.voice_setVoice]
  split
  · next same => rw [same]; exact voice
  · exact voices m

/-- Writing the global registers alike keeps the agreement. -/
theorem Agrees.updateGlobals {flags : Prop} {s t : State} (h : Agrees flags s t) {f f' : Globals → Globals}
    (alike : GlobalsAgree (f s.g) (f' t.g)) : Agrees flags (s.updateGlobals f) (t.updateGlobals f') := by
  obtain ⟨vs, g, rfl, globals, voices⟩ := h
  exact ⟨vs, _, rfl, alike, voices⟩

/-! ### Register writes -/

/-- A command changes the flags and fields of a voice alike, whatever its noise frequency. -/
theorem voiceWrite_withoutFrequency (i : Instr) (s : State) (v : Voice) :
    (voiceWrite i s v).withoutFrequency = (voiceWrite i s v.withoutFrequency).withoutFrequency := by
  cases i with
  | wave u => simp only [voiceWrite]; split <;> rfl
  | _ => rfl

theorem voiceWrite_noiseFrequency {i : Instr} {s : State} {v w : Voice}
    (h : v.noiseChannel = true → v.noiseFrequency = w.noiseFrequency) (flag : (voiceWrite i s v).noiseChannel = true) :
    (voiceWrite i s v).noiseFrequency = (voiceWrite i s w).noiseFrequency := by
  cases i with
  | noise ne selector => rfl
  | wave u =>
    revert flag
    simp only [voiceWrite]
    split <;> exact h
  | _ => exact h flag

theorem voiceWrite_dda {i : Instr} {s : State} {v w : Voice} (h : v.dda = w.dda) :
    (voiceWrite i s v).dda = (voiceWrite i s w).dda := by
  cases i with
  | ctrl en dda vol => rfl
  | wave u => simp only [voiceWrite]; split <;> exact h
  | _ => exact h

theorem VoiceAgrees.voiceWrite {flags : Prop} {n : VoiceIndex} {v w : Voice} (h : VoiceAgrees flags n v w) (i : Instr) (s : State) :
    VoiceAgrees flags n (voiceWrite i s v) (voiceWrite i s w) := by
  refine ⟨fun low => ?_, fun ge lt => by rw [h.2.1 ge lt], fun ge flag => voiceWrite_dda (h.2.2 ge flag)⟩
  obtain ⟨fields, frequency⟩ := (audible_eq_iff v w).mp (h.1 low)
  refine (audible_eq_iff _ _).mpr ⟨?_, voiceWrite_noiseFrequency frequency⟩
  rw [voiceWrite_withoutFrequency, fields, ← voiceWrite_withoutFrequency]

theorem GlobalsAgree.globalWrite {g h : Globals} (agree : GlobalsAgree g h) (i : Instr) (s : State) :
    GlobalsAgree (globalWrite i s g) (globalWrite i s h) := by
  obtain ⟨latch, left, right, cursor, flag⟩ := h
  cases agree
  cases i with
  | ctrl en dda vol => simp only [Machine.globalWrite]; split <;> rfl
  | wave u => simp only [Machine.globalWrite]; split <;> rfl
  | _ => rfl

/-- Where the command is a `WAVE`, the latched voice is in direct-audio mode in both states or in neither. -/
def WaveAgrees (i : Instr) (s t : State) : Prop := ∀ u, i = .wave u → (s.voice s.latched).dda = (t.voice s.latched).dda

/-- What a command reads of the state, it finds alike, but for a `WAVE` under different flags. -/
theorem Agrees.writes {flags : Prop} {s t : State} (h : Agrees flags s t) {i : Instr} (wave : WaveAgrees i s t) :
    writtenVoice i t = writtenVoice i s ∧ voiceWrite i t = voiceWrite i s ∧ globalWrite i t = globalWrite i s := by
  obtain ⟨vs, g, rfl, globals, voices⟩ := h
  obtain ⟨latch, left, right, cursor, flag⟩ := g
  cases globals
  cases i with
  | wave u =>
    have dda := wave u rfl
    refine ⟨rfl, if_congr (Eq.congr_left (Eq.symm dda)) rfl rfl, if_congr (Eq.congr_left (Eq.symm dda)) rfl rfl⟩
  | _ => exact ⟨rfl, rfl, rfl⟩

theorem Agrees.written {flags : Prop} {s t : State} (h : Agrees flags s t) {i : Instr} (wave : WaveAgrees i s t) :
    Agrees flags (written i s) (written i t) := by
  obtain ⟨voice, voices, globals⟩ := h.writes wave
  obtain ⟨-, -, -, before, voiceAgrees⟩ := id h
  have local_ := h.setVoice ((voiceAgrees (writtenVoice i s)).voiceWrite i s)
  rw [Machine.written, Machine.written, voice, voices, globals]
  exact local_.updateGlobals (before.globalWrite i s)

/-! ### Mixing -/

/-- A function that does not read a noise frequency does not tell audibly equal voices apart. -/
theorem eq_of_withoutFrequency {α : Type} {p : Voice → α} (ignores : ∀ v, p v = p v.withoutFrequency) {v w : Voice}
    (h : v.withoutFrequency = w.withoutFrequency) : p v = p w := by
  rw [ignores v, h, ← ignores w]

theorem playbackFrequency_of_audible (c : Config) {v w : Voice} (h : v.audible = w.audible) :
    playbackFrequency c v = playbackFrequency c w := by
  obtain ⟨fields, frequency⟩ := (audible_eq_iff v w).mp h
  have flags : v.noiseChannel = w.noiseChannel := noiseChannel_of_withoutFrequency fields
  cases flag : v.noiseChannel with
  | true => rw [playbackFrequency_noise c flag, playbackFrequency_noise c (flags.symm.trans flag), frequency flag]
  | false =>
    have tone (u : Voice) (h : u.noiseChannel = false) : playbackFrequency c u = playbackFrequency c u.withoutFrequency := by
      simp [playbackFrequency, Voice.withoutFrequency, h]
    rw [tone v flag, tone w (flags.symm.trans flag), fields]

/-- All that the mix of a mixed voice reads, it finds alike. -/
theorem Agrees.mixReads {flags : Prop} {s t : State} (h : Agrees flags s t) {n : VoiceIndex} (mixed : n.val < 6) :
    voiceSkipped t n = voiceSkipped s n ∧
      playbackFrequency t.cfg (t.voice n) = playbackFrequency s.cfg (s.voice n) ∧
      (∀ f k, voicePhase t n f k = voicePhase s n f k) ∧ ∀ f a b, voiceAdd t n f a b = voiceAdd s n f a b := by
  obtain ⟨vs, ⟨latch, left, right, cursor, flag⟩, rfl, globals, voices⟩ := h
  cases globals
  have audible := ((voices n).audible mixed).symm
  obtain ⟨fields, -⟩ := (audible_eq_iff _ _).mp audible
  refine ⟨?_, playbackFrequency_of_audible s.cfg audible, fun f k => ?_, fun f a b => ?_⟩
  · exact eq_of_withoutFrequency (p := fun v => s.host.mute[n.val] || !v.enabled || (!v.dda && v.volume == 0)) (fun _ => rfl) fields
  · exact eq_of_withoutFrequency (p := fun v => pairPhase (f32OfNat (waveformLength s.cfg v))
      (phaseRate s.cfg f (waveformLength s.cfg v)) v.phase k) (fun _ => rfl) fields
  · exact eq_of_withoutFrequency (p := fun v => pairsAdd s.cfg v s.host.amp (f32OfNat (waveformLength s.cfg v))
      (phaseRate s.cfg f (waveformLength s.cfg v)) (gainLeft s.cfg s.g v) (gainRight s.cfg s.g v) v.phase ((b - a) / 2) a)
      (fun _ => rfl) fields

theorem VoiceAgrees.withPhase {flags : Prop} {n : VoiceIndex} {v w : Voice} (h : VoiceAgrees flags n v w) (phase : F32) :
    VoiceAgrees flags n { v with phase := phase } { w with phase := phase } := by
  refine ⟨fun low => ?_, fun ge lt => by rw [h.2.1 ge lt], h.2.2⟩
  obtain ⟨fields, frequency⟩ := (audible_eq_iff v w).mp (h.1 low)
  exact (audible_eq_iff _ _).mpr ⟨congrArg (fun u : Voice => { u with phase := phase }) fields, frequency⟩

theorem Agrees.mixVoice {flags : Prop} {s t : State} (h : Agrees flags s t) {n : VoiceIndex} (mixed : n.val < 6) (a b : Nat)
    (out : List Sample) :
    (Machine.mixVoice n a b t out).2 = (Machine.mixVoice n a b s out).2 ∧
      Agrees flags (Machine.mixVoice n a b s out).1 (Machine.mixVoice n a b t out).1 := by
  obtain ⟨skips, plays, phases, adds⟩ := h.mixReads mixed
  cases skipped : voiceSkipped s n with
  | true =>
    rw [mixVoice_of_skipped skipped, mixVoice_of_skipped (skips.trans skipped)]
    exact ⟨rfl, h⟩
  | false =>
    cases frequency : playbackFrequency s.cfg (s.voice n) with
    | none =>
      rw [mixVoice_of_silent frequency, mixVoice_of_silent (plays.trans frequency)]
      exact ⟨rfl, h⟩
    | some f =>
      rw [mixVoice_sounding skipped frequency, mixVoice_sounding (skips.trans skipped) (plays.trans frequency), phases, adds]
      obtain ⟨-, -, -, -, voices⟩ := id h
      exact ⟨rfl, h.setVoice ((voices n).withPhase _)⟩

theorem Agrees.mixVoices {flags : Prop} {ns : List VoiceIndex} (mixed : ∀ n ∈ ns, n.val < 6) {s t : State} (h : Agrees flags s t)
    (a b : Nat) (out : List Sample) :
    (Machine.mixVoices ns a b t out).2 = (Machine.mixVoices ns a b s out).2 ∧
      Agrees flags (Machine.mixVoices ns a b s out).1 (Machine.mixVoices ns a b t out).1 := by
  induction ns generalizing s t out with
  | nil => exact ⟨rfl, h⟩
  | cons n ns ih =>
    obtain ⟨head, tail⟩ := List.forall_mem_cons.mp mixed
    obtain ⟨buffer, agree⟩ := h.mixVoice head a b out
    rw [mixVoices_cons, mixVoices_cons, buffer]
    exact ih tail agree _

theorem Agrees.mixSegment {flags : Prop} {s t : State} (h : Agrees flags s t) (a b : Nat) (out : List Sample) :
    (Machine.mixSegment a b t out).2 = (Machine.mixSegment a b s out).2 ∧
      Agrees flags (Machine.mixSegment a b s out).1 (Machine.mixSegment a b t out).1 := by
  rw [Machine.mixSegment, Machine.mixSegment]
  exact h.mixVoices (by decide) a b out

/-! ### Steps -/

/-- Updating a field other than the voices and the global registers keeps the agreement. -/
theorem Agrees.update {flags : Prop} {s t : State} (h : Agrees flags s t) (f : State → State)
    (frame : ∀ (r : State) vs g, f { r with voices := vs, g := g } = { f r with voices := vs, g := g }) :
    Agrees flags (f s) (f t) := by
  obtain ⟨vs, g, rfl, globals, voices⟩ := h
  have kept : f s = { f s with voices := s.voices, g := s.g } := frame s s.voices s.g
  have changed : f { s with voices := vs, g := g } = { f s with voices := vs, g := g } := frame s vs g
  refine ⟨vs, g, changed, ?_, fun n => ?_⟩
  · rw [changed, kept]
    exact globals
  · rw [changed, kept]
    exact voices n

theorem Agrees.violationIf {flags : Prop} {s t : State} (h : Agrees flags s t) (broken : Bool) (kind : ViolationKind) :
    Agrees flags (Machine.violationIf broken kind s) (Machine.violationIf broken kind t) := by
  obtain ⟨vs, ⟨latch, left, right, cursor, flag⟩, rfl, globals, voices⟩ := h
  cases globals
  simp only [violationIf_eq]
  exact ⟨vs, _, rfl, rfl, voices⟩

/-- The fields that no agreement leaves open. -/
theorem Agrees.fields {flags : Prop} {s t : State} (h : Agrees flags s t) :
    t.cfg = s.cfg ∧ t.queue = s.queue ∧ t.time = s.time ∧ t.activity = s.activity ∧ t.calls = s.calls ∧ t.outbox = s.outbox := by
  obtain ⟨vs, g, rfl, -⟩ := h
  exact ⟨rfl, rfl, rfl, rfl, rfl, rfl⟩

theorem Agrees.mixToCommand {flags : Prop} {s t : State} (h : Agrees flags s t) (elapsed : Int) (start : Nat) (out : List Sample)
    (cmd : Command) :
    Agrees flags (Machine.mixToCommand elapsed start out cmd s) (Machine.mixToCommand elapsed start out cmd t) := by
  have agree := (h.violationIf (positionBroken (rawPosition cmd.timeOffset out.length elapsed) start out.length)
    .positionOutOfRange).mixSegment start (clampPosition (rawPosition cmd.timeOffset out.length elapsed) start out.length) out
  simp only [Machine.mixToCommand]
  generalize Machine.mixSegment _ _ (Machine.violationIf _ _ s) out = x at agree ⊢
  generalize Machine.mixSegment _ _ (Machine.violationIf _ _ t) out = y at agree ⊢
  obtain ⟨buffer, agree⟩ := agree
  rw [buffer]
  exact agree.update (fun r => { r with activity := _ }) fun _ _ _ => rfl

theorem Agrees.finishSamples {flags : Prop} {s t : State} (h : Agrees flags s t) (start : Nat) (out : List Sample) :
    Agrees flags (Machine.finishSamples start out s) (Machine.finishSamples start out t) := by
  have agree := h.mixSegment start out.length out
  simp only [Machine.finishSamples]
  generalize Machine.mixSegment _ _ s out = x at agree ⊢
  generalize Machine.mixSegment _ _ t out = y at agree ⊢
  obtain ⟨buffer, agree⟩ := agree
  rw [buffer]
  exact agree.update (fun r => { r with activity := .idle, outbox := r.outbox ++ [_] }) fun _ _ _ => rfl

/-- Two answers are both refusals and the same, or related next states. -/
def AnswersRelate (R : State → State → Prop) (x y : Answer) : Prop :=
  (∀ s', x = .next s' → ∃ t', y = .next t' ∧ R s' t') ∧ ∀ r, x = .refused r → y = .refused r

theorem answersRelate_next {R : State → State → Prop} {s t : State} (h : R s t) : AnswersRelate R (.next s) (.next t) := by
  refine ⟨fun s' e => ?_, nofun⟩
  cases e
  exact ⟨t, rfl, h⟩

theorem answersRelate_refused (R : State → State → Prop) (r : Refusal) : AnswersRelate R (.refused r) (.refused r) :=
  ⟨nofun, fun _ e => e⟩

theorem AnswersRelate.mono {R R' : State → State → Prop} {x y : Answer} (h : AnswersRelate R x y) (le : ∀ s t, R s t → R' s t) :
    AnswersRelate R' x y :=
  ⟨fun s' e => (h.1 s' e).imp fun t' next => ⟨next.1, le s' t' next.2⟩, h.2⟩

/-- The snapshots of agreeing states are equal: a snapshot holds noise fields of voices 4 and 5 only (R201). -/
theorem Agrees.takeSnapshot_eq {flags : Prop} {s t : State} (h : Agrees flags s t) : takeSnapshot s = takeSnapshot t := by
  obtain ⟨vs, ⟨latch, left, right, cursor, flag⟩, rfl, globals, voices⟩ := h
  cases globals
  have four := (voices 4).2.1 (by decide) (by decide)
  have five := (voices 5).2.1 (by decide) (by decide)
  refine eq_takeSnapshot (fun n => ?_) (congrArg NoiseRecord.ofVoice four) (congrArg NoiseRecord.ofVoice five) rfl rfl rfl rfl rfl rfl
  obtain ⟨fields, -⟩ := (audible_eq_iff _ _).mp ((voices (n.castLE (by decide))).audible n.isLt)
  rw [takeSnapshot_voice]
  exact eq_of_withoutFrequency (p := VoiceRecord.ofVoice) (fun _ => rfl) fields

theorem VoiceAgrees.restoredVoice {flags : Prop} {n : VoiceIndex} {v w : Voice} (h : VoiceAgrees flags n v w) (u : State) :
    VoiceAgrees flags n (restoredVoice u n v) (restoredVoice u n w) := by
  unfold Machine.restoredVoice
  split
  · next low =>
    obtain ⟨fields, frequency⟩ := (audible_eq_iff v w).mp (h.1 low)
    have flag := noiseChannel_of_withoutFrequency fields
    have same : ((u.voice n).keepingNoise v).audible = ((u.voice n).keepingNoise w).audible := by
      refine (audible_eq_iff _ _).mpr ⟨?_, frequency⟩
      simp only [Voice.withoutFrequency, Voice.keepingNoise, flag]
    exact ⟨fun _ => same, fun ge => by omega, fun ge => by omega⟩
  · split
    · exact .refl flags n _
    · exact h

theorem Agrees.restoreSnapshot {flags : Prop} {s t : State} (h : Agrees flags s t) (record : Snapshot) :
    AnswersRelate (Agrees flags) (Machine.restoreSnapshot record s) (Machine.restoreSnapshot record t) := by
  obtain ⟨u, rfl, accepted⟩ | refused := restoreSnapshot_cases record
  · rw [restoreSnapshot_takeSnapshot accepted, restoreSnapshot_takeSnapshot accepted]
    obtain ⟨vs, g, rfl, globals, voices⟩ := h
    refine answersRelate_next ⟨_, _, rfl, rfl, fun n => ?_⟩
    have restored := (voices n).restoredVoice u
    rw [← restoredInto_voice, ← restoredInto_voice] at restored
    exact restored
  · rw [refused, refused]
    exact answersRelate_refused _ _

/-- A host operation answers agreeing states alike. -/
theorem Agrees.beginOp {flags : Prop} {s t : State} (h : Agrees flags s t) (op : HostOp) :
    AnswersRelate (Agrees flags) (Machine.beginOp op s) (Machine.beginOp op t) := by
  obtain ⟨-, -, time, -, -, -⟩ := h.fields
  cases op with
  | beginFrame c => exact answersRelate_next (h.update (fun r => { r with activity := .draining c }) fun _ _ _ => rfl)
  | endFrame c => exact answersRelate_next (h.update (fun r => { r with time := { r.time with last := c } }) fun _ _ _ => rfl)
  | discardSamples => exact answersRelate_next h
  | restore record => exact h.restoreSnapshot record
  | setMute n b =>
    exact answersRelate_next (h.update (fun r => { r with host := { r.host with mute := r.host.mute.set n.val b n.isLt } })
      fun _ _ _ => rfl)
  | snapshot =>
    simp only [Machine.beginOp, ← h.takeSnapshot_eq]
    exact answersRelate_next (h.update (fun r => { r with outbox := r.outbox ++ [_] }) fun _ _ _ => rfl)
  | writeRegister register value c =>
    simp only [Machine.beginOp, writeRegister, time]
    split
    · exact answersRelate_next (h.update (fun r => { r with queue := r.queue ++ [_] }) fun _ _ _ => rfl)
    · exact answersRelate_refused _ _
  | setAmp a =>
    simp only [Machine.beginOp, setAmp]
    split
    · exact answersRelate_next (h.update (fun r => { r with host := { r.host with amp := _ } }) fun _ _ _ => rfl)
    · exact answersRelate_refused _ _
  | getSamples out =>
    simp only [Machine.beginOp, beginSamples, time]
    split
    · exact answersRelate_refused _ _
    · exact answersRelate_next ((h.violationIf _ _).update (fun r => { r with activity := _ }) fun _ _ _ => rfl)
  | reset =>
    obtain ⟨vs, g, rfl, -⟩ := h
    exact answersRelate_next (.refl flags _)

/-- The premise of the statements, as the premise about the command that the step applies. -/
theorem Agrees.waveAgrees {flags : Prop} {s t : State} (h : Agrees flags s t) (unmixed : UnmixedWaveAgrees s t)
    (busy : s.activity ≠ .idle) {cmd : Command} {rest : List Command} (queue : s.queue = cmd :: rest) :
    WaveAgrees (decodeCommand cmd.r cmd.v) s t := by
  intro u wave
  by_cases mixed : s.latched.val < 6
  · obtain ⟨-, -, -, -, voices⟩ := h
    exact (voices s.latched).dda mixed
  · have register : cmd.r = 6 := by rw [← index_decodeCommand cmd.r cmd.v, wave]; rfl
    exact unmixed ⟨busy, Nat.le_of_not_lt mixed, cmd, rest, queue, register⟩

/-- Mixing up to a command keeps what a `WAVE` reads. -/
theorem mixToCommand_dda (elapsed : Int) (start : Nat) (out : List Sample) (cmd : Command) (s : State) :
    (mixToCommand elapsed start out cmd s).latched = s.latched ∧
      ∀ n, ((mixToCommand elapsed start out cmd s).voice n).dda = (s.voice n).dda := by
  obtain ⟨position, broken, mixed, out', segment, eq⟩ := mixToCommand_eq elapsed start out cmd s
  obtain ⟨globals, phases⟩ := mixSegment_keeps segment
  rw [eq]
  constructor
  · have latch : mixed.g.voiceLatch = s.g.voiceLatch := by rw [globals, violationIf_eq]
    exact congrArg BitVec.toFin latch
  · intro n
    have flagged : ((violationIf broken .positionOutOfRange s).voice n).dda = (s.voice n).dda := by rw [State.voice_violationIf]
    exact (congrArg Voice.dda (phases n)).trans flagged

/-- Two agreeing states answer a step alike, but for a `WAVE` to voice 6 or 7 under different flags. -/
theorem Agrees.step {flags : Prop} {s t : State} (h : Agrees flags s t) (unmixed : UnmixedWaveAgrees s t) :
    AnswersRelate (Agrees flags) (Machine.step s) (Machine.step t) := by
  obtain ⟨cfg, queues, time, acts, calls, outbox⟩ := h.fields
  cases wf : s.cfg.wf with
  | false =>
    rw [step_of_not_wf wf, step_of_not_wf (by rw [cfg, wf])]
    exact answersRelate_refused _ _
  | true =>
    have wf' : t.cfg.wf = true := by rw [cfg, wf]
    cases act : s.activity with
    | idle =>
      cases call : s.calls with
      | nil =>
        rw [step_idle_wait wf act call, step_idle_wait wf' (acts.trans act) (calls.trans call)]
        exact answersRelate_next h
      | cons first rest =>
        obtain ⟨op, inside⟩ := first
        cases inside with
        | none =>
          rw [step_idle_call wf act call, step_idle_call wf' (acts.trans act) (calls.trans call)]
          exact (h.update (fun r => { r with calls := rest }) fun _ _ _ => rfl).beginOp op
        | some inner =>
          rw [step_idle_reentrant wf act call, step_idle_reentrant wf' (acts.trans act) (calls.trans call)]
          exact answersRelate_refused _ _
    | draining c =>
      cases queue : s.queue with
      | nil =>
        rw [step_draining_end wf act queue, step_draining_end wf' (acts.trans act) (queues.trans queue)]
        exact answersRelate_next (h.update (fun r => { r with time := { r.time with origin := c }, activity := .idle }) fun _ _ _ => rfl)
      | cons cmd rest =>
        have wave := h.waveAgrees unmixed (by rw [act]; nofun) queue
        rw [step_draining_command wf act queue, step_draining_command wf' (acts.trans act) (queues.trans queue), exec_eq_written,
          exec_eq_written]
        exact answersRelate_next ((h.update (fun r => { r with queue := rest }) fun _ _ _ => rfl).written wave)
    | mixing elapsed start out =>
      cases queue : s.queue with
      | nil =>
        rw [step_mixing_end wf act queue, step_mixing_end wf' (acts.trans act) (queues.trans queue)]
        exact answersRelate_next (h.finishSamples start out)
      | cons cmd rest =>
        have wave := h.waveAgrees unmixed (by rw [act]; nofun) queue
        rw [step_mixing_command wf act queue, step_mixing_command wf' (acts.trans act) (queues.trans queue), exec_eq_written,
          exec_eq_written]
        refine answersRelate_next (((h.update (fun r => { r with queue := rest }) fun _ _ _ => rfl).mixToCommand _ _ _ _).written
          fun u e => ?_)
        obtain ⟨latched, dda⟩ := mixToCommand_dda elapsed start out cmd { s with queue := rest }
        obtain ⟨-, dda'⟩ := mixToCommand_dda elapsed start out cmd { t with queue := rest }
        rw [latched, dda, dda']
        exact wave u e

/-- States that agree on the `dda` flags of voices 6 and 7 too agree wherever a `WAVE` reads them. -/
theorem unmixedWaveAgrees_of_agrees {s t : State} (h : Agrees True s t) : UnmixedWaveAgrees s t := by
  rintro ⟨-, unmixed, -⟩
  obtain ⟨-, -, -, -, voices⟩ := h
  exact (voices s.latched).2.2 unmixed trivial

/-- Settles O57, from the step of two agreeing states. -/
theorem outputIgnoresTheInaudibleState : Obligations.OutputIgnoresTheInaudibleState := by
  unfold Obligations.OutputIgnoresTheInaudibleState
  constructor
  · intro s t audible
    have agree := (sameAudible_iff_agrees s t).mp audible
    simp only [sameAudible_iff_agrees]
    exact agree.step (unmixedWaveAgrees_of_agrees agree)
  · intro s t mixed unmixed
    simp only [sameMixed_iff_agrees]
    exact ((sameMixed_iff_agrees s t).mp mixed).step unmixed

end Sys2Proof.Machine
end

section
/-!
PROOFS. The round trip of 43_serialization.md rule R205: a restored core agrees with the core of the snapshot, and plays the same output; and the
corner of rule R137 in which the flags of voices 6 and 7 reach the write cursor.
-/

namespace Sys2Proof.Machine

/-! ### Agreement after a restore -/

/-- A restored voice agrees with that of the snapshot: what it keeps is a noise frequency without its flag, or a voice that is not mixed. -/
theorem voiceAgrees_restoredVoice {flags : Prop} {s : State} {n : VoiceIndex} {v : Voice}
    (tone : n.val < 4 → (s.voice n).noiseChannel = false ∧ v.noiseChannel = false)
    (dda : 6 ≤ n.val → flags → (s.voice n).dda = v.dda) : VoiceAgrees flags n (s.voice n) (restoredVoice s n v) := by
  unfold restoredVoice
  split
  · next low =>
    obtain ⟨quiet, quiet'⟩ := tone low
    have same : (s.voice n).audible = ((s.voice n).keepingNoise v).audible := by
      refine (audible_eq_iff _ _).mpr ⟨?_, fun flag => by rw [quiet] at flag; cases flag⟩
      simp only [Voice.withoutFrequency, Voice.keepingNoise, quiet, quiet']
    exact ⟨fun _ => same, fun ge => by omega, fun ge => by omega⟩
  · split
    · exact .refl flags n _
    · exact ⟨fun low => by omega, fun _ lt => by omega, dda⟩

theorem dda_of_six_of_seven {s t : State} (six : (s.voice 6).dda = (t.voice 6).dda) (seven : (s.voice 7).dda = (t.voice 7).dda)
    {n : VoiceIndex} (unmixed : 6 ≤ n.val) : (s.voice n).dda = (t.voice n).dda := by
  obtain rfl | rfl : n = 6 ∨ n = 7 := by simp only [Fin.ext_iff]; omega
  · exact six
  · exact seven

/-- The premises of R205 about two cores before the restore. -/
structure RoundTrip (flags : Prop) (s t : State) : Prop where
  queue : s.queue = []
  cfg : t.cfg = s.cfg
  host : t.host = s.host
  tone : ∀ n : VoiceIndex, n.val < 4 → (s.voice n).noiseChannel = false ∧ (t.voice n).noiseChannel = false
  dda : ∀ n : VoiceIndex, 6 ≤ n.val → flags → (s.voice n).dda = (t.voice n).dda

theorem RoundTrip.agrees {flags : Prop} {s t : State} (h : RoundTrip flags s t) (flag : Bool) :
    Agrees flags s { s with voices := (restoredInto s t).voices, g := { s.g with contractViolation := flag } } := by
  refine ⟨_, _, rfl, rfl, fun n => ?_⟩
  have restored := voiceAgrees_restoredVoice (v := t.voice n) (h.tone n) (h.dda n)
  rw [← restoredInto_voice] at restored
  exact restored

/-- Settles O36: what a restored core keeps is inaudible. -/
theorem restoredCoreSoundsTheSame : Obligations.RestoredCoreSoundsTheSame := by
  unfold Obligations.RestoredCoreSoundsTheSame
  intro s t accepted queue cfg host tone six seven
  have trip : RoundTrip True s t := ⟨queue, cfg, host, tone, fun _ unmixed _ => dda_of_six_of_seven six seven unmixed⟩
  have agree := trip.agrees (!t.queue.isEmpty || t.g.contractViolation)
  refine ⟨_, restoreSnapshot_takeSnapshot accepted t, (sameAudible_iff_agrees _ _).mpr ?_⟩
  rw [cfg, host, ← queue]
  exact agree

/-! ### The corner of voices 6 and 7 (R137) -/

theorem cursor_after_wave_of_not_dda (u : BitVec 8) {s : State} (h : (s.voice s.latched).dda = false) :
    ∃ t, exec (.wave u) s = .next t ∧ t.g.waveWriteCursor = s.g.waveWriteCursor + 1 :=
  ⟨_, exec_wave_of_not_dda u h, rfl⟩

theorem cursor_after_wave_of_dda (u : BitVec 8) {s : State} (h : (s.voice s.latched).dda = true) :
    ∃ t, exec (.wave u) s = .next t ∧ t.g.waveWriteCursor = s.g.waveWriteCursor :=
  ⟨_, exec_wave_of_dda u h, rfl⟩

theorem cursor_succ_ne (c : BitVec 5) : c + 1 ≠ c := by
  revert c
  decide

/-- Settles O58: one of the two cores advances the cursor, and the other does not. -/
theorem unmixedDirectAudioFlagReachesTheCursor : Obligations.UnmixedDirectAudioFlagReachesTheCursor := by
  unfold Obligations.UnmixedDirectAudioFlagReachesTheCursor
  constructor
  · intro s u latched table
    obtain ⟨t, applied, cursor⟩ := cursor_after_wave_of_not_dda u (s := s) (by rw [latched, table])
    obtain ⟨t', applied', cursor'⟩ := cursor_after_wave_of_dda u (s := s.setVoice 6 { s.voice 6 with dda := true })
      (by rw [State.latched_setVoice, latched, State.voice_setVoice_same])
    refine ⟨t, t', applied, applied', ?_⟩
    rw [cursor, cursor']
    exact cursor_succ_ne _
  · intro s t code accepted latched direct table
    have restored := restoreSnapshot_takeSnapshot accepted t
    obtain ⟨s', applied, cursor⟩ := cursor_after_wave_of_dda code (s := s) (by rw [latched, direct])
    have kept : (restoredInto s t).voice 6 = t.voice 6 := restoredInto_voice s t 6
    obtain ⟨u', applied', cursor'⟩ := cursor_after_wave_of_not_dda code (s := { t with
      voices := (restoredInto s t).voices
      g := { s.g with contractViolation := !t.queue.isEmpty || t.g.contractViolation }
      queue := [] }) (by
        have here : ((restoredInto s t).voice s.latched).dda = false := by rw [latched, kept, table]
        exact here)
    refine ⟨_, s', u', restored, latched, rfl, applied, applied', ?_⟩
    rw [cursor, cursor']
    exact (cursor_succ_ne _).symm

/-! ### Two cores under the same calls (R205) -/

/-- Two cores that the host calls alike. From the restore to the first `endFrame` they may differ in the frame times, which the calls of R60
write before anything reads them; from then on they agree. -/
inductive Paired (flags : Prop) (a : State) : State → Prop where
  | agrees {b : State} (agree : Agrees flags a b) : Paired flags a b
  | framing {b : State} {c d : Int} {writes later : List HostCall} (τ : FrameTimes) (agree : Agrees flags a b)
      (idle : a.activity = .idle) (queue : a.queue = [])
      (calls : a.calls = ⟨.beginFrame c, none⟩ :: (writes ++ ⟨.endFrame d, none⟩ :: later))
      (only : ∀ call ∈ writes, ∃ register value cycle, call = ⟨.writeRegister register value cycle, none⟩) :
      Paired flags a { b with time := τ }
  | draining {b : State} {c d : Int} {writes later : List HostCall} (τ : FrameTimes) (agree : Agrees flags a b)
      (act : a.activity = .draining c) (queue : a.queue = []) (calls : a.calls = writes ++ ⟨.endFrame d, none⟩ :: later)
      (only : ∀ call ∈ writes, ∃ register value cycle, call = ⟨.writeRegister register value cycle, none⟩) :
      Paired flags a { b with time := τ }
  | writing {b : State} {d : Int} {writes later : List HostCall} (τ : FrameTimes) (agree : Agrees flags a b)
      (idle : a.activity = .idle) (origin : τ.origin = a.time.origin) (calls : a.calls = writes ++ ⟨.endFrame d, none⟩ :: later)
      (only : ∀ call ∈ writes, ∃ register value cycle, call = ⟨.writeRegister register value cycle, none⟩) :
      Paired flags a { b with time := τ }

theorem Paired.outbox {flags : Prop} {a b : State} (h : Paired flags a b) : a.outbox = b.outbox := by
  cases h with
  | agrees agree | framing τ agree | draining τ agree | writing τ agree =>
    obtain ⟨-, -, -, -, -, outbox⟩ := agree.fields
    exact outbox.symm

/-- With the flags of voices 6 and 7 part of the agreement no premise on the run is needed. -/
theorem Paired.unmixedWaveAgrees {a b : State} (h : Paired True a b) : UnmixedWaveAgrees a b := by
  cases h with
  | agrees agree | framing τ agree | draining τ agree | writing τ agree =>
    have premise := unmixedWaveAgrees_of_agrees agree
    exact premise

/-- The calls of R60 keep two cores paired, and every step after them. -/
theorem Paired.step {flags : Prop} {a b : State} (h : Paired flags a b) (unmixed : UnmixedWaveAgrees a b) :
    AnswersRelate (Paired flags) (Machine.step a) (Machine.step b) := by
  have cfg : b.cfg = a.cfg := by
    cases h with
    | agrees agree | framing τ agree | draining τ agree | writing τ agree => exact agree.fields.1
  cases wf : a.cfg.wf with
  | false =>
    rw [step_of_not_wf wf, step_of_not_wf (by rw [cfg, wf])]
    exact answersRelate_refused _ _
  | true =>
    have wf' : b.cfg.wf = true := by rw [cfg, wf]
    cases h with
    | agrees agree => exact (agree.step unmixed).mono fun _ _ => .agrees
    | @framing b c d writes later τ agree idle queue calls only =>
      obtain ⟨-, -, -, act', calls', -⟩ := id agree.fields
      rw [step_idle_call wf idle calls, step_idle_call wf' (act'.trans idle) (calls'.trans calls)]
      exact answersRelate_next (.draining τ (agree.update (fun r => { r with calls := _, activity := .draining c }) fun _ _ _ => rfl)
        rfl queue rfl only)
    | @draining b c d writes later τ agree act queue calls only =>
      obtain ⟨-, queue', -, act', -⟩ := agree.fields
      rw [step_draining_end wf act queue, step_draining_end wf' (act'.trans act) (queue'.trans queue)]
      exact answersRelate_next (.writing { τ with origin := c }
        (agree.update (fun r => { r with time := { r.time with origin := c }, activity := .idle }) fun _ _ _ => rfl) rfl rfl calls only)
    | @writing b d writes later τ agree idle origin calls only =>
      obtain ⟨-, -, -, act', calls', -⟩ := agree.fields
      cases writes with
      | nil =>
        rw [step_idle_call wf idle calls, step_idle_call wf' (act'.trans idle) (calls'.trans calls), beginOp_endFrame, beginOp_endFrame]
        obtain ⟨o, l⟩ := τ
        obtain rfl := origin
        exact answersRelate_next (.agrees
          (agree.update (fun r => { r with calls := later, time := { a.time with last := d } }) fun _ _ _ => rfl))
      | cons call writes =>
        obtain ⟨⟨register, value, cycle, rfl⟩, others⟩ := List.forall_mem_cons.mp only
        rw [step_idle_call wf idle calls, step_idle_call wf' (act'.trans idle) (calls'.trans calls)]
        simp only [beginOp, writeRegister, origin]
        split
        · exact answersRelate_next (.writing τ (agree.update (fun r => { r with calls := _, queue := r.queue ++ [_] }) fun _ _ _ => rfl)
            idle origin rfl others)
        · exact answersRelate_refused _ _

/-- Runs of paired cores hand over the same results, or end in the same refusal. -/
theorem Paired.run {flags : Prop} (k : Nat) {a b : State} (h : Paired flags a b)
    (unmixed : ∀ j < k, ∀ a' b', Host.Core.run Sys2Proof.core j a = .next a' → Host.Core.run Sys2Proof.core j b = .next b' →
      Paired flags a' b' → UnmixedWaveAgrees a' b') :
    AnswersRelate (Paired flags) (Host.Core.run Sys2Proof.core k a) (Host.Core.run Sys2Proof.core k b) := by
  induction k generalizing a b with
  | zero => exact answersRelate_next h
  | succ k ih =>
    have here := h.step (unmixed 0 (Nat.succ_pos k) a b rfl rfl h)
    cases first : Machine.step a with
    | next a₁ =>
      obtain ⟨b₁, first', paired⟩ := here.1 a₁ first
      rw [run_of_next first, run_of_next first']
      refine ih paired fun j lt a' b' ra rb => unmixed (j + 1) (Nat.succ_lt_succ lt) a' b' ?_ ?_
      · rw [run_of_next first, ra]
      · rw [run_of_next first', rb]
    | fault r => cases r
    | refused r =>
      rw [run_of_refused first, run_of_refused (here.2 r first)]
      exact answersRelate_refused _ _

/-- A core one step behind a paired one hands over the same results one step later, or is refused alike. -/
theorem Paired.sameResults {flags : Prop} {A B u : State} (h : Paired flags A u) (restored : Machine.step B = .next u) (k : Nat)
    (unmixed : ∀ j < k, ∀ a b, Host.Core.run Sys2Proof.core j A = .next a → Host.Core.run Sys2Proof.core (j + 1) B = .next b →
      Paired flags a b → UnmixedWaveAgrees a b) :
    (∀ a, Host.Core.run Sys2Proof.core k A = .next a →
      ∃ b, Host.Core.run Sys2Proof.core (k + 1) B = .next b ∧ a.outbox = b.outbox) ∧
    ∀ r, Host.Core.run Sys2Proof.core k A = .refused r → Host.Core.run Sys2Proof.core (k + 1) B = .refused r := by
  have relate := h.run k fun j lt a b ra rb => unmixed j lt a b ra ((run_of_next restored j).trans rb)
  refine ⟨fun a ra => ?_, fun r rr => (run_of_next restored k).trans (relate.2 r rr)⟩
  obtain ⟨b, rb, paired⟩ := relate.1 a ra
  exact ⟨b, (run_of_next restored k).trans rb, paired.outbox⟩

/-- The step of the `restore` pairs the restored core with the core of the snapshot. -/
theorem RoundTrip.paired {flags : Prop} {s t B : State} (h : RoundTrip flags s t) (accepted : AcceptedPhases s)
    (wf : s.cfg.wf = true) (idle : s.activity = .idle) (idle' : t.activity = .idle) {c d : Int} {writes later rest : List HostCall}
    (only : ∀ call ∈ writes, ∃ register value cycle, call = ⟨.writeRegister register value cycle, none⟩)
    (calls : rest = ⟨.beginFrame c, none⟩ :: (writes ++ ⟨.endFrame d, none⟩ :: later))
    (before : B = { t with calls := ⟨.restore (takeSnapshot s), none⟩ :: rest, outbox := s.outbox }) :
    ∃ u, step B = .next u ∧ Paired flags { s with calls := rest } u := by
  have begun : step B = restoreSnapshot (takeSnapshot s) { B with calls := rest } :=
    (step_idle_call (by rw [before, h.cfg, wf]) (by rw [before, idle']) (by rw [before])).trans (beginOp_restore _ _)
  have agree := (h.agrees (!t.queue.isEmpty || t.g.contractViolation)).update (fun r => { r with calls := rest }) fun _ _ _ => rfl
  refine ⟨_, ?_, .framing t.time agree idle h.queue calls only⟩
  rw [begun, restoreSnapshot_takeSnapshot accepted, before]
  simp only [h.cfg, h.host, h.queue, idle, idle']
  rfl

/-- Settles O59: the restore pairs the two cores, and they stay paired. -/
theorem restoredCorePlaysTheSameOutput : Obligations.RestoredCorePlaysTheSameOutput := by
  unfold Obligations.RestoredCorePlaysTheSameOutput
  rintro s t A B c d writes later rest k wf idle idle' queue cfg host accepted tone only calls rfl before premise
  obtain ⟨six, seven⟩ | unmixed := premise
  · have trip : RoundTrip True s t := ⟨queue, cfg, host, tone, fun _ unmixed _ => dda_of_six_of_seven six seven unmixed⟩
    obtain ⟨u, restored, paired⟩ := trip.paired accepted wf idle idle' only calls before
    exact paired.sameResults restored k fun _ _ _ _ _ _ stay => stay.unmixedWaveAgrees
  · have trip : RoundTrip False s t := ⟨queue, cfg, host, tone, fun _ _ => False.elim⟩
    obtain ⟨u, restored, paired⟩ := trip.paired accepted wf idle idle' only calls before
    exact paired.sameResults restored k fun j lt a b ra rb _ => unmixed j lt a b ra rb

end Sys2Proof.Machine
end

section
/-!
PROOFS. The binary32 operations (00_scope.md rule R12): the magnitude of a bit pattern as an increasing function of its bits, rounding as the
nearest value of that function, and from these the operations and the phase of a voice.
-/

namespace Sys2Proof.Machine

/-! ### Magnitudes -/

/-- The magnitude of the bits below the sign, in units of 2^-149; past the largest finite value it goes on by the same rule. -/
def bitsMagnitude (m : Nat) : Nat := if m / 2 ^ 23 = 0 then m % 2 ^ 23 else (2 ^ 23 + m % 2 ^ 23) * 2 ^ (m / 2 ^ 23 - 1)

theorem f32Magnitude_eq (a : F32) : f32Magnitude a = bitsMagnitude (a.toNat % 2 ^ 31) := by
  have exponent : f32Exponent a = a.toNat % 2 ^ 31 / 2 ^ 23 := by simp only [f32Exponent]; omega
  have fraction : f32Fraction a = a.toNat % 2 ^ 31 % 2 ^ 23 := by simp only [f32Fraction]; omega
  rw [f32Magnitude, bitsMagnitude, exponent, fraction]

theorem f32Magnitude_withSign_eq (negative : Bool) {m : Nat} (h : m < 2 ^ 31) :
    f32Magnitude (f32WithSign negative m) = bitsMagnitude m := by
  have bits : (f32WithSign negative m).toNat % 2 ^ 31 = m := by
    rw [f32WithSign_toNat negative h]
    split <;> omega
  rw [f32Magnitude_eq, bits]

/-- A significand of 24 bits and an exponent put together; a significand of 2^24 carries into the exponent. -/
theorem bitsMagnitude_pack {e q : Nat} (normal : e = 0 ∨ 2 ^ 23 ≤ q) (fits : q ≤ 2 ^ 24) :
    bitsMagnitude (e * 2 ^ 23 + q) = q * 2 ^ e := by
  unfold bitsMagnitude
  obtain carry | below : q = 2 ^ 24 ∨ q < 2 ^ 24 := by omega
  · have quotient : (e * 2 ^ 23 + q) / 2 ^ 23 = e + 2 := by omega
    have remainder : (e * 2 ^ 23 + q) % 2 ^ 23 = 0 := by omega
    rw [quotient, remainder, if_neg (by omega), carry, show e + 2 - 1 = e + 1 from rfl, Nat.pow_succ]
    ring
  · obtain subnormal | significand : q < 2 ^ 23 ∨ 2 ^ 23 ≤ q := by omega
    · obtain rfl : e = 0 := by omega
      rw [if_pos (by omega), Nat.pow_zero]
      omega
    · have quotient : (e * 2 ^ 23 + q) / 2 ^ 23 = e + 1 := by omega
      have remainder : (e * 2 ^ 23 + q) % 2 ^ 23 = q - 2 ^ 23 := by omega
      rw [quotient, remainder, if_neg (by omega), Nat.add_sub_cancel' significand, Nat.add_sub_cancel]

/-- Every pattern of bits is a significand of at most 24 bits and an exponent. -/
theorem exists_pack (m : Nat) : ∃ e q, m = e * 2 ^ 23 + q ∧ (e = 0 ∨ 2 ^ 23 ≤ q) ∧ q < 2 ^ 24 := by
  obtain subnormal | normal : m < 2 ^ 23 ∨ 2 ^ 23 ≤ m := by omega
  · exact ⟨0, m, by omega, .inl rfl, by omega⟩
  · exact ⟨m / 2 ^ 23 - 1, 2 ^ 23 + m % 2 ^ 23, by omega, .inr (by omega), by omega⟩

theorem bitsMagnitude_strictMono : StrictMono bitsMagnitude := by
  refine strictMono_nat_of_lt_succ fun m => ?_
  obtain ⟨e, q, rfl, normal, fits⟩ := exists_pack m
  rw [Nat.add_assoc, bitsMagnitude_pack normal fits.le, bitsMagnitude_pack (by omega) fits]
  exact Nat.mul_lt_mul_of_pos_right (Nat.lt_succ_self q) (Nat.two_pow_pos e)

/-- Every multiple of a power of two with a significand of 24 bits is a magnitude. -/
theorem exists_bitsMagnitude {k : Nat} (fits : k ≤ 2 ^ 24) (e : Nat) : ∃ m, bitsMagnitude m = k * 2 ^ e := by
  induction e generalizing k with
  | zero => exact ⟨_, bitsMagnitude_pack (.inl rfl) fits⟩
  | succ e ih =>
    obtain normal | small : 2 ^ 23 ≤ k ∨ k < 2 ^ 23 := by omega
    · exact ⟨_, bitsMagnitude_pack (.inr normal) fits⟩
    · obtain ⟨m, magnitude⟩ := ih (k := 2 * k) (by omega)
      exact ⟨m, by rw [magnitude, Nat.pow_succ]; ring⟩

/-! ### Rounding to the nearest, ties to even -/

/-- The distance of two natural numbers, as the statements write it. -/
def gap (x y : Nat) : Nat := ((x : Int) - (y : Int)).natAbs

theorem gap_of_le {x y : Nat} (h : x ≤ y) : gap x y = y - x := by unfold gap; omega

/-- Below half the divisor the remainder is dropped, above it the quotient goes up, and at half of it the even neighbour is taken. -/
theorem roundHalfEven_cases (num den : Nat) :
    (2 * (num % den) < den ∧ roundHalfEven num den = num / den) ∨ (den < 2 * (num % den) ∧ roundHalfEven num den = num / den + 1) ∨
      (2 * (num % den) = den ∧ roundHalfEven num den % 2 = 0 ∧ num / den ≤ roundHalfEven num den ∧
        roundHalfEven num den ≤ num / den + 1) := by
  simp only [roundHalfEven]
  split_ifs <;> omega

/-- The multiples of the divisor are at least a divisor apart. -/
theorem mul_add_le_mul {m q : Nat} (den : Nat) (h : m < q) : m * den + den ≤ q * den := by
  rw [← Nat.succ_mul]
  exact Nat.mul_le_mul_right den h

/-- No multiple of the divisor is nearer than the rounded one, and where another is as near the rounded quotient is even. -/
theorem roundHalfEven_nearest (num : Nat) {den : Nat} (pos : 0 < den) (m : Nat) :
    gap (roundHalfEven num den * den) num ≤ gap (m * den) num ∧
      (gap (roundHalfEven num den * den) num = gap (m * den) num → m ≠ roundHalfEven num den → roundHalfEven num den % 2 = 0) := by
  have parts : num / den * den + num % den = num := Nat.div_add_mod' num den
  have small : num % den < den := Nat.mod_lt num pos
  have next : (num / den + 1) * den = num / den * den + den := Nat.succ_mul _ _
  have below : m < num / den → m * den + den ≤ num / den * den := mul_add_le_mul den
  have above : num / den + 1 < m → (num / den + 1) * den + den ≤ m * den := mul_add_le_mul den
  obtain rfl | rfl | apart : m = num / den ∨ m = num / den + 1 ∨ m < num / den ∨ num / den + 1 < m := by omega
  all_goals
    unfold gap
    obtain ⟨half, down⟩ | ⟨half, up⟩ | ⟨half, even, low, high⟩ := roundHalfEven_cases num den
    · rw [down]
      omega
    · rw [up]
      omega
    · obtain same | same : roundHalfEven num den = num / den ∨ roundHalfEven num den = num / den + 1 := by omega
      all_goals
        rw [same] at even ⊢
        omega

theorem le_roundHalfEven {num den k : Nat} (pos : 0 < den) (h : k * den ≤ num) : k ≤ roundHalfEven num den := by
  have quotient : k ≤ num / den := (Nat.le_div_iff_mul_le pos).2 h
  have := roundHalfEven_cases num den
  omega

theorem roundHalfEven_le {num den k : Nat} (pos : 0 < den) (h : num < k * den) : roundHalfEven num den ≤ k := by
  have quotient : num / den < k := (Nat.div_lt_iff_lt_mul pos).2 h
  have := roundHalfEven_cases num den
  omega

/-! ### Rounding to binary32 -/

/-- The exponent that the rounding takes from the integer part of the magnitude. -/
def roundExponent (num den : Nat) : Nat := Nat.log2 (num / den) - 23

/-- The bits of the rounded magnitude before the infinity cuts them off. -/
def roundBits (num den : Nat) : Nat := roundExponent num den * 2 ^ 23 + roundHalfEven num (den * 2 ^ roundExponent num den)

theorem roundMagnitude_eq (num den : Nat) : roundMagnitude num den = min (roundBits num den) 0x7F800000 := rfl

/-- The exponent puts the integer part of the magnitude below a significand of 24 bits. -/
theorem lt_roundExponent {num den : Nat} (pos : 0 < den) : num < 2 ^ 24 * (den * 2 ^ roundExponent num den) := by
  have quotient : num / den < 2 ^ (roundExponent num den + 24) :=
    Nat.lt_log2_self.trans_le (Nat.pow_le_pow_right (by decide) (by unfold roundExponent; omega))
  calc num < 2 ^ (roundExponent num den + 24) * den := (Nat.div_lt_iff_lt_mul pos).1 quotient
    _ = 2 ^ 24 * (den * 2 ^ roundExponent num den) := by rw [Nat.pow_add]; ring

/-- An exponent other than 0 leaves a significand of no less than 24 bits. -/
theorem roundExponent_le {num den : Nat} (pos : 0 < den) (scaled : roundExponent num den ≠ 0) :
    2 ^ 23 * (den * 2 ^ roundExponent num den) ≤ num := by
  unfold roundExponent at *
  have nonzero : num / den ≠ 0 := fun zero => by rw [zero] at scaled; exact scaled rfl
  have quotient : 2 ^ (Nat.log2 (num / den) - 23 + 23) ≤ num / den := by
    rw [Nat.sub_add_cancel (by omega)]
    exact Nat.log2_self_le nonzero
  calc 2 ^ 23 * (den * 2 ^ (Nat.log2 (num / den) - 23)) = 2 ^ (Nat.log2 (num / den) - 23 + 23) * den := by rw [Nat.pow_add]; ring
    _ ≤ num := (Nat.le_div_iff_mul_le pos).1 quotient

section
variable {num den : Nat} (pos : 0 < den)
include pos

theorem roundSignificand_le : roundHalfEven num (den * 2 ^ roundExponent num den) ≤ 2 ^ 24 :=
  roundHalfEven_le (Nat.mul_pos pos (Nat.two_pow_pos _)) (lt_roundExponent pos)

theorem roundSignificand_normal :
    roundExponent num den = 0 ∨ 2 ^ 23 ≤ roundHalfEven num (den * 2 ^ roundExponent num den) := by
  by_cases scaled : roundExponent num den = 0
  · exact .inl scaled
  · exact .inr (le_roundHalfEven (Nat.mul_pos pos (Nat.two_pow_pos _)) (roundExponent_le pos scaled))

theorem bitsMagnitude_roundBits :
    bitsMagnitude (roundBits num den) = roundHalfEven num (den * 2 ^ roundExponent num den) * 2 ^ roundExponent num den :=
  bitsMagnitude_pack (roundSignificand_normal pos) (roundSignificand_le pos)

/-- The magnitudes whose exponent is not below the rounding's are its multiples. -/
theorem roundBits_nearest_multiple (k : Nat) :
    gap (bitsMagnitude (roundBits num den) * den) num ≤ gap (k * 2 ^ roundExponent num den * den) num ∧
      (gap (bitsMagnitude (roundBits num den) * den) num = gap (k * 2 ^ roundExponent num den * den) num →
        k * 2 ^ roundExponent num den ≠ bitsMagnitude (roundBits num den) → roundBits num den % 2 = 0) := by
  obtain ⟨nearest, tie⟩ := roundHalfEven_nearest num (Nat.mul_pos pos (Nat.two_pow_pos (roundExponent num den))) k
  rw [bitsMagnitude_roundBits pos, Nat.mul_assoc, Nat.mul_assoc, Nat.mul_comm _ den]
  refine ⟨nearest, fun same other => ?_⟩
  have even := tie same fun equal => other (by rw [equal])
  unfold roundBits
  omega

/-- No magnitude is nearer than the rounded one, and where another is as near the rounded bits are even. -/
theorem roundBits_nearest (m : Nat) :
    gap (bitsMagnitude (roundBits num den) * den) num ≤ gap (bitsMagnitude m * den) num ∧
      (gap (bitsMagnitude (roundBits num den) * den) num = gap (bitsMagnitude m * den) num → m ≠ roundBits num den →
        roundBits num den % 2 = 0) := by
  obtain ⟨e, q, rfl, normal, fits⟩ := exists_pack m
  by_cases coarse : roundExponent num den ≤ e
  · have multiple : bitsMagnitude (e * 2 ^ 23 + q) = q * 2 ^ (e - roundExponent num den) * 2 ^ roundExponent num den := by
      rw [bitsMagnitude_pack normal fits.le, Nat.mul_assoc, ← Nat.pow_add, Nat.sub_add_cancel coarse]
    obtain ⟨nearest, tie⟩ := roundBits_nearest_multiple pos (num := num) (q * 2 ^ (e - roundExponent num den))
    rw [← multiple] at nearest tie
    exact ⟨nearest, fun same other => tie same (bitsMagnitude_strictMono.injective.ne other)⟩
  · -- A finer magnitude lies below the least multiple of 24 bits, which is at or below the exact value and so strictly nearer.
    obtain ⟨nearest, -⟩ := roundBits_nearest_multiple pos (num := num) (2 ^ 23)
    have least := roundExponent_le pos (num := num) (by omega)
    have finer : bitsMagnitude (e * 2 ^ 23 + q) < 2 ^ 23 * 2 ^ roundExponent num den := by
      rw [bitsMagnitude_pack normal fits.le]
      calc q * 2 ^ e < 2 ^ 24 * 2 ^ e := Nat.mul_lt_mul_of_pos_right fits (Nat.two_pow_pos e)
        _ = 2 ^ 23 * 2 ^ (e + 1) := by rw [Nat.pow_succ]; ring
        _ ≤ 2 ^ 23 * 2 ^ roundExponent num den := Nat.mul_le_mul_left _ (Nat.pow_le_pow_right (by decide) (by omega))
    have apart := mul_add_le_mul den finer
    have scaled : 2 ^ 23 * 2 ^ roundExponent num den * den = 2 ^ 23 * (den * 2 ^ roundExponent num den) := by ring
    rw [scaled] at apart nearest
    rw [gap_of_le least] at nearest
    rw [gap_of_le (by omega : bitsMagnitude (e * 2 ^ 23 + q) * den ≤ num)]
    omega

end

/-- A magnitude that rounds to a finite one is rounded to its bits. -/
theorem roundMagnitude_of_lt {num den : Nat} (finite : roundMagnitude num den < 0x7F800000) :
    roundMagnitude num den = roundBits num den := by
  rw [roundMagnitude_eq] at *
  omega

/-! ### Overflow -/

theorem overflow_eq (den : Nat) : den * ((2 ^ 25 - 1) * 2 ^ 252) = (2 ^ 25 - 1) * (den * 2 ^ 252) := Nat.mul_left_comm ..

/-- The largest finite magnitude. -/
theorem largest_mul (den : Nat) : bitsMagnitude (0x7F800000 - 1) * den = (2 ^ 25 - 2) * (den * 2 ^ 252) := by
  rw [show 0x7F800000 - 1 = 253 * 2 ^ 23 + (2 ^ 24 - 1) from rfl, bitsMagnitude_pack (.inr (by decide)) (by decide), Nat.pow_succ]
  ring

/-- The value that stands for the infinity in the comparison: the next one after the largest. -/
theorem inf_mul (den : Nat) : bitsMagnitude 0x7F800000 * den = 2 ^ 25 * (den * 2 ^ 252) := by
  rw [show 0x7F800000 = 253 * 2 ^ 23 + 2 ^ 24 from rfl, bitsMagnitude_pack (.inr (by decide)) (by decide), Nat.pow_succ]
  ring

section
variable {num den : Nat} (pos : 0 < den)
include pos

/-- From half a unit past the largest finite magnitude on the rounding is the infinity: at the half the largest has an odd last bit. -/
theorem roundMagnitude_overflow (large : den * ((2 ^ 25 - 1) * 2 ^ 252) ≤ num) : roundMagnitude num den = 0x7F800000 := by
  by_contra finite
  have below : roundBits num den ≤ 0x7F800000 - 1 := by
    rw [roundMagnitude_eq] at finite
    omega
  have rounded := Nat.mul_le_mul_right den (bitsMagnitude_strictMono.monotone below)
  obtain ⟨nearest, tie⟩ := roundBits_nearest pos (num := num) 0x7F800000
  rw [overflow_eq] at large
  rw [largest_mul] at rounded
  rw [inf_mul] at nearest tie
  have unit : 0 < den * 2 ^ 252 := Nat.mul_pos pos (Nat.two_pow_pos 252)
  obtain odd | lower : roundBits num den = 0x7F800000 - 1 ∨ roundBits num den < 0x7F800000 - 1 := by omega
  · rw [odd, largest_mul] at nearest tie
    generalize den * 2 ^ 252 = unit at *
    unfold gap at *
    omega
  · have apart := mul_add_le_mul den (bitsMagnitude_strictMono lower)
    rw [largest_mul] at apart
    generalize den * 2 ^ 252 = unit at *
    unfold gap at *
    omega

theorem roundMagnitude_lt_inf (small : num < den * ((2 ^ 25 - 1) * 2 ^ 252)) : roundMagnitude num den < 0x7F800000 := by
  by_contra infinite
  have above : 0x7F800000 ≤ roundBits num den := by
    rw [roundMagnitude_eq] at infinite
    omega
  have rounded := Nat.mul_le_mul_right den (bitsMagnitude_strictMono.monotone above)
  obtain ⟨nearest, -⟩ := roundBits_nearest pos (num := num) (0x7F800000 - 1)
  rw [overflow_eq] at small
  rw [inf_mul] at rounded
  rw [largest_mul] at nearest
  generalize den * 2 ^ 252 = unit at *
  unfold gap at *
  omega

end

/-! ### The classes of bit patterns -/

theorem f32Finite_iff (a : F32) : f32Finite a = true ↔ a.toNat % 2 ^ 31 < 0x7F800000 := by
  have := a.isLt
  simp only [f32Finite, f32Exponent, bne_iff_ne]
  omega

theorem f32IsNaN_of_finite {a : F32} (finite : f32Finite a = true) : f32IsNaN a = false := by
  rw [f32Finite, bne_iff_ne] at finite
  simp [f32IsNaN, finite]

theorem f32IsInf_of_finite {a : F32} (finite : f32Finite a = true) : f32IsInf a = false := by
  rw [f32Finite, bne_iff_ne] at finite
  simp [f32IsInf, finite]

theorem f32IsNaN_of_inf {a : F32} (infinite : f32IsInf a = true) : f32IsNaN a = false := by
  simp only [f32IsInf, Bool.and_eq_true, beq_iff_eq] at infinite
  simp [f32IsNaN, infinite.2]

theorem f32Magnitude_pattern {m : Nat} (h : m < 2 ^ 31) : f32Magnitude (BitVec.ofNat 32 m) = bitsMagnitude m :=
  f32Magnitude_withSign_eq false h

/-! ### The operations -/

theorem f32Add_finite {a b : F32} (finiteA : f32Finite a = true) (finiteB : f32Finite b = true) :
    f32Add a b = f32OfUnits (f32Sign a && f32Sign b) (f32Units a + f32Units b) := by
  simp [f32Add, f32IsNaN_of_finite, f32IsInf_of_finite, finiteA, finiteB]

theorem f32Div_finite {a b : F32} (finiteA : f32Finite a = true) (finiteB : f32Finite b = true) (divisor : f32Magnitude b ≠ 0) :
    f32Div a b = f32WithSign (f32Sign a != f32Sign b) (roundMagnitude (f32Magnitude a * 2 ^ 149) (f32Magnitude b)) := by
  simp [f32Div, f32IsNaN_of_finite, f32IsInf_of_finite, finiteA, finiteB, divisor]

theorem f32Div_zero {a b : F32} (finiteA : f32Finite a = true) (finiteB : f32Finite b = true) (divisor : f32Magnitude b = 0) :
    f32Div a b = if f32Magnitude a = 0 then f32NaN .div a b else f32Inf (f32Sign a != f32Sign b) := by
  simp [f32Div, f32IsNaN_of_finite, f32IsInf_of_finite, finiteA, finiteB, divisor]

theorem f32Fmod_finite {a b : F32} (finiteA : f32Finite a = true) (finiteB : f32Finite b = true) (divisor : f32Magnitude b ≠ 0) :
    f32Fmod a b = f32WithSign (f32Sign a) (roundMagnitude (f32Magnitude a % f32Magnitude b) 1) := by
  simp [f32Fmod, f32IsNaN_of_finite, f32IsInf_of_finite, finiteA, finiteB, divisor]

/-! ### Rounded results -/

/-- A sign with a rounded magnitude is the rounding of the exact value. -/
theorem roundsTo_withSign (negative : Bool) (num : Nat) {den : Nat} (pos : 0 < den) :
    RoundsTo negative num den (f32WithSign negative (roundMagnitude num den)) := by
  have below := roundMagnitude_lt num den
  refine ⟨f32Sign_withSign negative below, fun large => ?_, fun small => ?_⟩
  · rw [roundMagnitude_overflow pos large]
    exact f32IsInf_inf negative
  · have finite := roundMagnitude_lt_inf pos small
    refine ⟨f32Finite_withSign negative finite, fun m _ => ?_⟩
    rw [f32Magnitude_withSign_eq negative below, f32Magnitude_eq m, f32WithSign_toNat negative below, roundMagnitude_of_lt finite]
    obtain ⟨nearest, tie⟩ := roundBits_nearest pos (num := num) (m.toNat % 2 ^ 31)
    refine ⟨nearest, fun same other => ?_⟩
    have even := tie same fun equal => other (congrArg bitsMagnitude equal)
    split <;> omega

theorem f32Add_roundsTo {a b : F32} (finiteA : f32Finite a = true) (finiteB : f32Finite b = true)
    (nonzero : f32Units a + f32Units b ≠ 0) :
    RoundsTo (decide (f32Units a + f32Units b < 0)) (f32Units a + f32Units b).natAbs 1 (f32Add a b) := by
  rw [f32Add_finite finiteA finiteB, f32OfUnits, if_neg nonzero]
  exact roundsTo_withSign _ _ (by decide)

theorem f32Add_cancel {a b : F32} (finiteA : f32Finite a = true) (finiteB : f32Finite b = true)
    (zero : f32Units a + f32Units b = 0) :
    f32Add a b = if f32Sign a = true ∧ f32Sign b = true then 0x80000000#32 else 0#32 := by
  rw [f32Add_finite finiteA finiteB, f32OfUnits, if_pos zero]
  cases f32Sign a <;> cases f32Sign b <;> rfl

theorem f32Div_roundsTo {a b : F32} (finiteA : f32Finite a = true) (finiteB : f32Finite b = true) (divisor : f32Magnitude b ≠ 0) :
    RoundsTo (f32Sign a != f32Sign b) (f32Magnitude a * 2 ^ 149) (f32Magnitude b) (f32Div a b) := by
  rw [f32Div_finite finiteA finiteB divisor]
  exact roundsTo_withSign _ _ (Nat.pos_of_ne_zero divisor)

theorem inf_and_sign (negative : Bool) : f32IsInf (f32Inf negative) = true ∧ f32Sign (f32Inf negative) = negative :=
  ⟨f32IsInf_inf negative, f32Sign_inf negative⟩

theorem f32Div_by_zero {a b : F32} (finiteA : f32Finite a = true) (finiteB : f32Finite b = true) (divisor : f32Magnitude b = 0)
    (nonzero : f32Magnitude a ≠ 0) : f32IsInf (f32Div a b) = true ∧ f32Sign (f32Div a b) = (f32Sign a != f32Sign b) := by
  rw [f32Div_zero finiteA finiteB divisor, if_neg nonzero]
  exact inf_and_sign _

theorem f32Div_zero_by_zero {a b : F32} (finiteA : f32Finite a = true) (finiteB : f32Finite b = true) (divisor : f32Magnitude b = 0)
    (zero : f32Magnitude a = 0) : f32IsNaN (f32Div a b) = true := by
  rw [f32Div_zero finiteA finiteB divisor, if_pos zero]
  exact f32IsNaN_nan _ a b

/-- An infinity with a finite value: it stays in a sum and as a dividend, and as a divisor gives a zero. -/
theorem inf_with_finite {a b : F32} (infinite : f32IsInf a = true) (finite : f32Finite b = true) :
    f32Add a b = a ∧ f32Add b a = a ∧ f32Div a b = f32Inf (f32Sign a != f32Sign b) ∧
      f32Div b a = f32WithSign (f32Sign b != f32Sign a) 0 := by
  simp [f32Add, f32Div, infinite, f32IsNaN_of_inf infinite, f32IsNaN_of_finite finite, f32IsInf_of_finite finite]

theorem zero_withSign (x y : Bool) : f32WithSign (x != y) 0 = if x = y then 0#32 else 0x80000000#32 := by
  cases x <;> cases y <;> rfl

/-- Two infinities: equal ones add up, and no quotient and no other sum of theirs is a number. -/
theorem inf_with_inf {a b : F32} (infiniteA : f32IsInf a = true) (infiniteB : f32IsInf b = true) :
    f32Div a b = f32NaN .div a b ∧ f32Add a b = if f32Sign a != f32Sign b then f32NaN .add a b else a := by
  simp [f32Add, f32Div, infiniteA, infiniteB, f32IsNaN_of_inf]

theorem nan_operand {a b : F32} (nan : f32IsNaN a = true ∨ f32IsNaN b = true) :
    f32Add a b = f32NaN .add a b ∧ f32Div a b = f32NaN .div a b := by
  rw [← Bool.or_eq_true] at nan
  simp only [f32Add, f32Div, nan, if_true, and_self]

/-- Settles O47: `roundBits_nearest` for the rounding, `roundsTo_withSign` for the operations on finite values, and their branches for the
other classes. -/
theorem roundingIsToNearestTiesToEven : Obligations.RoundingIsToNearestTiesToEven := by
  unfold Obligations.RoundingIsToNearestTiesToEven
  refine ⟨fun num den m pos finite small => ⟨_, _, rfl, rfl, ?_⟩, fun x => roundsTo_withSign false _ (by decide),
    fun a b finiteA finiteB => ⟨f32Add_roundsTo finiteA finiteB, f32Add_cancel finiteA finiteB, f32Div_roundsTo finiteA finiteB,
      f32Div_by_zero finiteA finiteB, f32Div_zero_by_zero finiteA finiteB⟩,
    fun a b infinite finite => ?_, fun a b infiniteA infiniteB => ?_, fun a b nan => ?_⟩
  · rw [f32Magnitude_pattern (by omega), f32Magnitude_pattern (by omega), roundMagnitude_of_lt finite, ← Nat.cast_mul, ← Nat.cast_mul]
    exact roundBits_nearest pos m
  · obtain ⟨left, right, quotient, zero⟩ := inf_with_finite infinite finite
    rw [quotient, zero]
    exact ⟨left, right, inf_and_sign _, zero_withSign _ _⟩
  · obtain ⟨quotient, sum⟩ := inf_with_inf infiniteA infiniteB
    rw [quotient, sum]
    refine ⟨f32IsNaN_nan _ a b, fun same => if_neg (by simp [same]), fun other => ?_⟩
    rw [if_pos (bne_iff_ne.2 other)]
    exact f32IsNaN_nan _ a b
  · obtain ⟨sum, quotient⟩ := nan_operand nan
    rw [sum, quotient]
    exact ⟨f32IsNaN_nan _ a b, f32IsNaN_nan _ a b⟩

end Sys2Proof.Machine
end

section
/-!
PROOFS. Where the binary32 operations are exact (00_scope.md rule R12), and from that the remainder, the phase of a voice inside its waveform
(42_oscillator_mixer.md rules R165, R166) and the held sample of a direct-audio voice (R174).
-/

namespace Sys2Proof.Machine

/-! ### Exact results -/

/-- A finite magnitude is rounded to itself. -/
theorem roundMagnitude_bitsMagnitude {m : Nat} (finite : m < 0x7F800000) : roundMagnitude (bitsMagnitude m) 1 = m := by
  obtain ⟨nearest, -⟩ := roundBits_nearest (num := bitsMagnitude m) Nat.one_pos m
  have same : bitsMagnitude (roundBits (bitsMagnitude m) 1) = bitsMagnitude m := by
    unfold gap at nearest
    omega
  rw [roundMagnitude_eq, bitsMagnitude_strictMono.injective same]
  omega

/-- The rounding of a magnitude that some finite pattern has. -/
theorem withSign_exact (negative : Bool) {x m : Nat} (magnitude : bitsMagnitude m = x) (finite : m < 0x7F800000) :
    f32Finite (f32WithSign negative (roundMagnitude x 1)) = true ∧ f32Sign (f32WithSign negative (roundMagnitude x 1)) = negative ∧
      f32Magnitude (f32WithSign negative (roundMagnitude x 1)) = x := by
  rw [← magnitude, roundMagnitude_bitsMagnitude finite]
  exact ⟨f32Finite_withSign negative finite, f32Sign_withSign negative (by omega), f32Magnitude_withSign_eq negative (by omega)⟩

/-- A finite value without a sign is the rounding of its own magnitude. -/
theorem withSign_magnitude {a : F32} (finite : f32Finite a = true) (sign : f32Sign a = false) :
    f32WithSign false (roundMagnitude (f32Magnitude a) 1) = a := by
  have bits : a.toNat % 2 ^ 31 = a.toNat := by
    rw [f32Sign_eq_decide, decide_eq_false_iff_not] at sign
    omega
  rw [f32Magnitude_eq, roundMagnitude_bitsMagnitude ((f32Finite_iff a).1 finite), bits]
  exact (BitVec.ofNat_toNat 32 a).trans (BitVec.setWidth_eq a)

/-- A remainder of two magnitudes is a magnitude: a multiple of the smaller power of two, with a significand below one of the two. -/
theorem exists_bitsMagnitude_mod (a : Nat) {b : Nat} (divisor : bitsMagnitude b ≠ 0) : ∃ m, bitsMagnitude m = bitsMagnitude a % bitsMagnitude b := by
  obtain ⟨e, q, rfl, normalA, fitsA⟩ := exists_pack a
  obtain ⟨f, r, rfl, normalB, fitsB⟩ := exists_pack b
  rw [bitsMagnitude_pack normalB fitsB.le] at divisor
  rw [bitsMagnitude_pack normalA fitsA.le, bitsMagnitude_pack normalB fitsB.le]
  obtain smaller | larger := Nat.le_total e f
  · obtain ⟨d, rfl⟩ := Nat.exists_eq_add_of_le smaller
    have scaled : q * 2 ^ e % (r * 2 ^ (e + d)) = q % (r * 2 ^ d) * 2 ^ e := by
      rw [← Nat.mul_mod_mul_right, Nat.pow_add, Nat.mul_assoc, Nat.mul_comm (2 ^ e)]
    rw [scaled]
    exact exists_bitsMagnitude ((Nat.mod_le _ _).trans fitsA.le) e
  · obtain ⟨d, rfl⟩ := Nat.exists_eq_add_of_le larger
    have scaled : q * 2 ^ (f + d) % (r * 2 ^ f) = q * 2 ^ d % r * 2 ^ f := by
      rw [← Nat.mul_mod_mul_right, Nat.pow_add, Nat.mul_assoc, Nat.mul_comm (2 ^ f)]
    have positive : 0 < r := Nat.pos_of_ne_zero (left_ne_zero_of_mul divisor)
    rw [scaled]
    exact exists_bitsMagnitude ((Nat.mod_lt _ positive).le.trans fitsB.le) f

/-- The remainder is computed exactly. -/
theorem f32Fmod_exact {a b : F32} (finiteA : f32Finite a = true) (finiteB : f32Finite b = true) (divisor : f32Magnitude b ≠ 0) :
    f32Finite (f32Fmod a b) = true ∧ f32Sign (f32Fmod a b) = f32Sign a ∧
      f32Magnitude (f32Fmod a b) = f32Magnitude a % f32Magnitude b := by
  rw [f32Fmod_finite finiteA finiteB divisor]
  obtain ⟨m, magnitude⟩ := exists_bitsMagnitude_mod (a.toNat % 2 ^ 31) (b := b.toNat % 2 ^ 31) (by rwa [← f32Magnitude_eq])
  rw [← f32Magnitude_eq, ← f32Magnitude_eq] at magnitude
  have below : m ≤ a.toNat % 2 ^ 31 := by
    rw [← bitsMagnitude_strictMono.le_iff_le, magnitude, ← f32Magnitude_eq]
    exact Nat.mod_le _ _
  exact withSign_exact _ magnitude (below.trans_lt ((f32Finite_iff a).1 finiteA))

/-- Settles O46: `f32Fmod_exact`, and the truncated remainder takes the sign of the dividend. -/
theorem fmodIsExact : Obligations.FmodIsExact := by
  unfold Obligations.FmodIsExact
  intro a b finiteA finiteB divisor
  obtain ⟨finite, sign, magnitude⟩ := f32Fmod_exact finiteA finiteB divisor
  refine ⟨finite, ?_⟩
  have remainder : ((f32Magnitude a % f32Magnitude b : Nat) : Int) = Int.tmod (f32Magnitude a) (f32Magnitude b) := Int.ofNat_tmod _ _
  rw [f32Units, sign, magnitude, remainder]
  unfold f32Units
  split_ifs <;> simp only [Int.neg_tmod, Int.tmod_neg]

/-! ### The phase inside the waveform (R51, R166) -/

/-- A value that is accepted as a phase is finite, and is its magnitude. -/
theorem units_of_accepted {a : F32} (accepted : AcceptedPhase a) : f32Finite a = true ∧ f32Units a = f32Magnitude a := by
  have nonnegative := (f32NonNegative_iff a).2 accepted
  simp only [f32NonNegative, Bool.and_eq_true, decide_eq_true_eq] at nonnegative
  refine ⟨nonnegative.1, ?_⟩
  unfold f32Units at *
  omega

theorem accepted_of_units {a : F32} (finite : f32Finite a = true) (nonnegative : 0 ≤ f32Units a) : AcceptedPhase a :=
  (f32NonNegative_iff a).1 (by simp [f32NonNegative, finite, nonnegative])

theorem accepted_of_sign {a : F32} (finite : f32Finite a = true) (sign : f32Sign a = false) : AcceptedPhase a :=
  accepted_of_units finite (by simp [f32Units, sign])

/-- The waveform lengths are exact, and not zero. -/
theorem f32OfNat_exact {length : Nat} (small : length ≤ 2 ^ 24) :
    f32Finite (f32OfNat length) = true ∧ f32Magnitude (f32OfNat length) = length * 2 ^ 149 := by
  obtain ⟨m, magnitude⟩ := exists_bitsMagnitude small 149
  have finite : m < 0x7F800000 := by
    rw [← bitsMagnitude_strictMono.lt_iff_lt, magnitude, ← Nat.mul_one (bitsMagnitude 0x7F800000), inf_mul]
    omega
  obtain ⟨result, -, value⟩ := withSign_exact false magnitude finite
  exact ⟨result, value⟩

/-- A phase wrapped into a waveform is accepted, and lies in it. -/
theorem wrapped_phase {phase : F32} {length : Nat} (accepted : AcceptedPhase phase) (nonempty : 1 ≤ length) (small : length ≤ 2 ^ 24) :
    AcceptedPhase (f32Fmod phase (f32OfNat length)) ∧ f32Magnitude (f32Fmod phase (f32OfNat length)) < length * 2 ^ 149 := by
  obtain ⟨finite, units⟩ := units_of_accepted accepted
  obtain ⟨finiteLength, lengthUnits⟩ := f32OfNat_exact small
  have positive : 0 < length * 2 ^ 149 := Nat.mul_pos nonempty (Nat.two_pow_pos 149)
  have divisor : f32Magnitude (f32OfNat length) ≠ 0 := lengthUnits ▸ positive.ne'
  obtain ⟨finiteResult, remainder⟩ := fmodIsExact phase (f32OfNat length) finite finiteLength divisor
  obtain ⟨-, -, magnitude⟩ := f32Fmod_exact finite finiteLength divisor
  rw [units] at remainder
  refine ⟨accepted_of_units finiteResult (remainder ▸ Int.tmod_nonneg _ (Int.natCast_nonneg _)), ?_⟩
  rw [magnitude, lengthUnits]
  exact Nat.mod_lt _ positive

theorem wrapped_index {phase : F32} {length : Nat} (accepted : AcceptedPhase phase) (nonempty : 1 ≤ length) (small : length ≤ 2 ^ 24) :
    f32TruncInt (f32Fmod phase (f32OfNat length)) < length := by
  obtain ⟨wrapped, below⟩ := wrapped_phase accepted nonempty small
  rw [f32TruncInt_of_accepted wrapped]
  exact (Nat.div_lt_iff_lt_mul (Nat.two_pow_pos 149)).2 below

/-- A sum of accepted values is accepted where it does not overflow. -/
theorem accepted_add {a b : F32} (acceptedA : AcceptedPhase a) (acceptedB : AcceptedPhase b)
    (small : f32Magnitude a + f32Magnitude b < (2 ^ 25 - 1) * 2 ^ 252) : AcceptedPhase (f32Add a b) := by
  obtain ⟨finiteA, unitsA⟩ := units_of_accepted acceptedA
  obtain ⟨finiteB, unitsB⟩ := units_of_accepted acceptedB
  by_cases zero : f32Units a + f32Units b = 0
  · rw [f32Add_cancel finiteA finiteB zero]
    split <;> exact (f32NonNegative_iff _).1 (by decide)
  · obtain ⟨sign, -, below⟩ := f32Add_roundsTo finiteA finiteB zero
    rw [unitsA, unitsB] at sign below
    obtain ⟨finite, -⟩ := below (by omega)
    exact accepted_of_sign finite (sign.trans (decide_eq_false (by omega)))

/-- Settles O48: the sum is far below the overflow, so both wraps are those of `wrapped_phase`. -/
theorem phaseStaysInsideTheWaveform : Obligations.PhaseStaysInsideTheWaveform := by
  unfold Obligations.PhaseStaysInsideTheWaveform
  intro phase rate length acceptedPhase acceptedRate slow nonempty small
  obtain ⟨wrapped, below⟩ := wrapped_phase acceptedPhase nonempty small
  have advanced := accepted_add wrapped acceptedRate (by omega)
  exact ⟨wrapped_index acceptedPhase nonempty small, (wrapped_phase advanced nonempty small).1, wrapped_index advanced nonempty small⟩

/-! ### A voice that does not move (R165, R174) -/

theorem f32Sign_ofNat (x : Nat) : f32Sign (f32OfNat x) = false := f32Sign_withSign false (roundMagnitude_lt _ _)

/-- A natural number from 1 on is not rounded to zero: 1 itself would be nearer. -/
theorem f32OfNat_cases {x : Nat} (positive : 1 ≤ x) :
    f32IsInf (f32OfNat x) = true ∨ f32Finite (f32OfNat x) = true ∧ f32Magnitude (f32OfNat x) ≠ 0 := by
  obtain ⟨-, large, small⟩ := roundsTo_withSign false (x * 2 ^ 149) Nat.one_pos
  obtain fits | overflow := Nat.lt_or_ge (x * 2 ^ 149) (1 * ((2 ^ 25 - 1) * 2 ^ 252))
  · obtain ⟨finite, nearest⟩ := small fits
    obtain ⟨finiteOne, one⟩ := f32OfNat_exact (length := 1) (by decide)
    have nearer := (nearest (f32OfNat 1) finiteOne).1
    refine .inr ⟨finite, fun zero => ?_⟩
    rw [f32OfNat] at zero
    rw [zero, one] at nearer
    omega
  · exact .inl (large overflow)

/-- A positive number divided by +0.0 is the positive infinity. -/
theorem f32Div_ofNat_zero {x : Nat} (positive : 1 ≤ x) : f32Div (f32OfNat x) (f32OfNat 0) = f32Inf false := by
  obtain ⟨finite, zero⟩ := f32OfNat_exact (length := 0) (by decide)
  rw [Nat.zero_mul] at zero
  obtain infinite | ⟨finiteX, nonzero⟩ := f32OfNat_cases positive
  · rw [(inf_with_finite infinite finite).2.2.1, f32Sign_ofNat, f32Sign_ofNat]
    rfl
  · rw [f32Div_zero finiteX finite zero, if_neg nonzero, f32Sign_ofNat, f32Sign_ofNat]
    rfl

/-- The rate of a playback frequency of 0 is +0.0: the period is infinite. -/
theorem phaseRate_zero {c : Config} (wf : c.wf = true) {wl : Nat} (small : wl ≤ 2 ^ 24) : phaseRate c 0 wl = 0#32 := by
  simp only [Config.wf, Bool.and_eq_true, Nat.ble_eq] at wf
  obtain ⟨⟨-, outputRate⟩, -⟩ := wf
  obtain ⟨-, -, -, quotient⟩ := inf_with_finite (f32IsInf_inf false) (f32OfNat_exact small).1
  rw [phaseRate, f32Div_ofNat_zero outputRate, quotient, f32Sign_ofNat, f32Sign_inf]
  rfl

section
variable {phase : F32} (finite : f32Finite phase = true) (sign : f32Sign phase = false)
include finite sign

theorem f32Add_zero : f32Add phase 0#32 = phase := by
  have units : f32Units phase + f32Units 0#32 = f32Magnitude phase := by simp [f32Units, sign]; rfl
  rw [f32Add_finite finite (by decide), units, f32OfUnits, sign]
  by_cases zero : f32Magnitude phase = 0
  · have self := withSign_magnitude finite sign
    rw [zero] at self
    rw [if_pos (by omega)]
    exact self
  · rw [if_neg (by omega), decide_eq_false (by omega), Int.natAbs_natCast, withSign_magnitude finite sign]

theorem f32Fmod_of_lt {length : Nat} (small : length ≤ 2 ^ 24) (inside : f32Magnitude phase < length * 2 ^ 149) :
    f32Fmod phase (f32OfNat length) = phase := by
  obtain ⟨finiteLength, units⟩ := f32OfNat_exact small
  rw [f32Fmod_finite finite finiteLength (by omega), units, Nat.mod_eq_of_lt inside, sign, withSign_magnitude finite sign]

/-- A phase inside the waveform stays where it is under a rate of +0.0. -/
theorem pairPhase_rate_zero {length : Nat} (small : length ≤ 2 ^ 24) (inside : f32Magnitude phase < length * 2 ^ 149) (k : Nat) :
    pairPhase (f32OfNat length) 0#32 phase k = phase := by
  induction k with
  | zero => rfl
  | succ k ih => rw [pairPhase_succ, ih, f32Fmod_of_lt finite sign small inside, advancePhase, f32Add_zero finite sign,
      f32Fmod_of_lt finite sign small inside]

end

/-- Settles O49: the rate is +0.0, so the phase stays, and every pair takes the held sample. -/
theorem directAudioVoiceHoldsItsSample : Obligations.DirectAudioVoiceHoldsItsSample := by
  unfold Obligations.DirectAudioVoiceHoldsItsSample
  intro n a b s out wf audible direct noise accepted sign phaseInside ordered even inside
  have plays := playbackFrequency_direct s.cfg noise direct
  have length : waveformLength s.cfg (s.voice n) = 32 := if_neg (by simp [noise])
  have still : voicePhase s n 0 ((b - a) / 2) = (s.voice n).phase := by
    rw [voicePhase, length, phaseRate_zero wf (by decide)]
    exact pairPhase_rate_zero (units_of_accepted accepted).1 sign (by decide) phaseInside _
  refine ⟨addEach (voiceAdd s n 0 a b) out, ?_, addEach_length _ _, fun i element => ?_⟩
  · rw [mixVoice_sounding audible plays, still, s.setVoice_voice]
  · rw [addEach_getD element]
    split_ifs with within parity
    · rw [voiceAdd, pairsAdd, if_pos (by omega), if_pos parity, voiceSample, if_pos direct]
    · rw [voiceAdd, pairsAdd, if_pos (by omega), if_neg parity, voiceSample, if_pos direct]
    · rw [voiceAdd_outside ordered (by omega), add_zero]

end Sys2Proof.Machine
end
